-- ==== Sys2Proof/Word.lean ====
section
/-! DEFINITION. The unit of every stream and field of the block: the byte (00_scope.md R7). -/

namespace Sys2Proof

/-- A byte: 8 bits, unsigned, bit 0 least significant (R7). -/
abbrev Byte := BitVec 8

end Sys2Proof
end

