-- ==== Sys2Proof/Config.lean ====
section
/-! DEFINITION. What is fixed when the block is built and the spec leaves open: one parameter (00_scope.md R6). -/

namespace Sys2Proof

/-- `ABC_IDX` (R6, 10_state.md R18, decision D10 OPEN): the index, 0 to 5, of the auto-baseline-correction status
byte in the payload of a response with code 0x7D. It has no value here, so whatever is proved holds for all six
values. Mark DESIGN CHOICE, safe: notes/assumptions/6.md. -/
opaque Config.abcIdx : Fin 6

end Sys2Proof
end

