-- ==== Sys2Proof/Syntax.lean ====
section
/-! DEFINITION. Frames, requests and instructions as data. One constructor of `Instr` per row of
spec/opcode_table.json. -/

namespace Sys2Proof

/-- The payload `P`: the six bytes `P[0]` to `P[5]`, frame offsets 2 to 7 (00_scope.md R8, 30_encoding.md R50). -/
structure Payload where
  p0 : Byte
  p1 : Byte
  p2 : Byte
  p3 : Byte
  p4 : Byte
  p5 : Byte
deriving DecidableEq, Repr

/-- A frame or a 9-byte window: header, code, payload, checksum (30_encoding.md R50). Its length is nine by its
type, so the encoder invariant violation of 60_exceptions.md R143 cannot be written down. Whether it is VALID is
`Frame.valid`. -/
structure Frame where
  hdr : Byte
  code : Byte
  payload : Payload
  cs : Byte
deriving DecidableEq, Repr

/-- The argument ports of an encoder request (10_state.md R26): `enc_argc`, `enc_arg0`, `enc_arg1`. -/
structure Args where
  argc : BitVec 2
  arg0 : BitVec 16
  arg1 : BitVec 32
deriving DecidableEq, Repr

/-- The input ports of the encoder (10_state.md R26). -/
structure EncRequest where
  code : Byte
  args : Args
  rawEn : Bool
  raw : BitVec 48
deriving DecidableEq, Repr

/-- The column "direction" of the opcode table: frames the encoder builds, or the decoder's classification of a
valid window (30_encoding.md, conventions of opcode_table.json). -/
inductive Direction where
  | tx
  | rx
deriving DecidableEq, Repr

/-- The operations of the block, one constructor per row of the opcode table. An encoder operation carries the
argument ports as presented, so that a wrong count or an offset out of range can be written down and refused; a
decoder case carries the payload and the checksum byte of its window. -/
inductive Instr where
  /-- TOGGLE_ABC, code 0x79 (R82). -/
  | toggleAbc (a : Args)
  /-- QUERY_ABC, code 0x7D (R83). -/
  | queryAbc (a : Args)
  /-- SET_INTERVAL, code 0x7E (R84). -/
  | setInterval (a : Args)
  /-- WRITE_CONFIG, code 0x80 (R86): always the generic command. -/
  | writeConfig (a : Args)
  /-- WRITE_CONFIG_1, code 0x81 given directly (R87). -/
  | writeConfig1 (a : Args)
  /-- WRITE_CONFIG_2, code 0x82 given directly (R88). -/
  | writeConfig2 (a : Args)
  /-- WRITE_CONFIG_3, code 0x83 given directly (R89). -/
  | writeConfig3 (a : Args)
  /-- RESET, code 0x8D (R90): a command for the sensor, not the block's reset. -/
  | reset (a : Args)
  /-- READ_CONFIG, code 0x90 (R91): always the generic command. -/
  | readConfig (a : Args)
  /-- READ_CONFIG_1, code 0x91 given directly (R92). -/
  | readConfig1 (a : Args)
  /-- READ_CONFIG_2, code 0x92 given directly (R93). -/
  | readConfig2 (a : Args)
  /-- READ_CONFIG_3, code 0x93 given directly (R95). -/
  | readConfig3 (a : Args)
  /-- QUERY_FW_VERSION, code 0xA0 (R96). -/
  | queryFwVersion (a : Args)
  /-- RAW, the raw-payload override with any code byte (R81). -/
  | raw (code : Byte) (raw : BitVec 48)
  /-- WRITE_CONFIG.generic, the pseudo-instruction of R60: the four wire codes of the write family. -/
  | writeConfigGeneric (a : Args)
  /-- READ_CONFIG.generic, the pseudo-instruction of R60: the four wire codes of the read family. -/
  | readConfigGeneric (a : Args)
  /-- RX_ABC_STATUS, a valid window with code 0x7D (R119). -/
  | rxAbcStatus (p : Payload) (cs : Byte)
  /-- RX_FW_VERSION, a valid window with code 0xA0 (R120). -/
  | rxFwVersion (p : Payload) (cs : Byte)
  /-- RX_TOGGLE_ABC, a valid window with code 0x79 (R123). -/
  | rxToggleAbc (p : Payload) (cs : Byte)
  /-- RX_SET_INTERVAL, a valid window with code 0x7E (R123). -/
  | rxSetInterval (p : Payload) (cs : Byte)
  /-- RX_WRITE_CONFIG, a valid window with code 0x80 (R123). -/
  | rxWriteConfig (p : Payload) (cs : Byte)
  /-- RX_WRITE_CONFIG_1, a valid window with code 0x81 (R123). -/
  | rxWriteConfig1 (p : Payload) (cs : Byte)
  /-- RX_WRITE_CONFIG_2, a valid window with code 0x82 (R123). -/
  | rxWriteConfig2 (p : Payload) (cs : Byte)
  /-- RX_WRITE_CONFIG_3, a valid window with code 0x83 (R123). -/
  | rxWriteConfig3 (p : Payload) (cs : Byte)
  /-- RX_RESET, a valid window with code 0x8D (R123). -/
  | rxReset (p : Payload) (cs : Byte)
  /-- RX_READ_CONFIG, a valid window with code 0x90 (R123). -/
  | rxReadConfig (p : Payload) (cs : Byte)
  /-- RX_READ_CONFIG_1, a valid window with code 0x91 (R123). -/
  | rxReadConfig1 (p : Payload) (cs : Byte)
  /-- RX_READ_CONFIG_2, a valid window with code 0x92 (R123). -/
  | rxReadConfig2 (p : Payload) (cs : Byte)
  /-- RX_READ_CONFIG_3, a valid window with code 0x93 (R123). -/
  | rxReadConfig3 (p : Payload) (cs : Byte)
  /-- RX_UNRECOGNISED, a valid window whose code byte is none of the 13 (R122). -/
  | rxUnrecognised (code : Byte) (p : Payload) (cs : Byte)
deriving DecidableEq, Repr

end Sys2Proof
end

