-- ==== Sys2Proof/Machine/Bytes.lean ====
section
/-! DEFINITION. Byte order: payloads, frames and the port vectors as sequences of bytes (00_scope.md R8, R9;
20_memory.md R30, R31). -/

namespace Sys2Proof

/-- `be16(v)`: most significant byte first (R9, R30). -/
def be16 (v : BitVec 16) : Byte × Byte := (v.extractLsb' 8 8, v.extractLsb' 0 8)

/-- `be32(v)`: most significant byte first (R9, R30). -/
def be32 (v : BitVec 32) : Byte × Byte × Byte × Byte :=
  (v.extractLsb' 24 8, v.extractLsb' 16 8, v.extractLsb' 8 8, v.extractLsb' 0 8)

/-- `[P[0], ..., P[5]]`. -/
def Payload.toBytes (p : Payload) : List Byte := [p.p0, p.p1, p.p2, p.p3, p.p4, p.p5]

/-- `P[i]`. -/
def Payload.get (p : Payload) (i : Fin 6) : Byte :=
  match i with
  | 0 => p.p0
  | 1 => p.p1
  | 2 => p.p2
  | 3 => p.p3
  | 4 => p.p4
  | 5 => p.p5

/-- A 48-bit port as six bytes, `P[0]` in bits 47:40 (10_state.md R25, R26). -/
def Payload.ofBits (v : BitVec 48) : Payload :=
  ⟨v.extractLsb' 40 8, v.extractLsb' 32 8, v.extractLsb' 24 8, v.extractLsb' 16 8, v.extractLsb' 8 8,
    v.extractLsb' 0 8⟩

/-- `{P[0], ..., P[5]}`, `P[0]` in bits 47:40 (10_state.md R25, R26). -/
def Payload.toBits (p : Payload) : BitVec 48 := p.p0 ++ p.p1 ++ p.p2 ++ p.p3 ++ p.p4 ++ p.p5

/-- The nine bytes of a frame in wire order, `F[0]` first (20_memory.md R31). -/
def Frame.toBytes (f : Frame) : List Byte := f.hdr :: f.code :: (f.payload.toBytes ++ [f.cs])

/-- `F[1..8]`: the seven bytes the checksum covers (30_encoding.md R51). -/
def Frame.body (f : Frame) : List Byte := f.code :: f.payload.toBytes

/-- `take(9, buf)` read as a window; none when fewer than nine bytes are there (42_decoder.md R111, R114). -/
def Frame.ofBytes (b : List Byte) : Option Frame :=
  match b with
  | b0 :: b1 :: b2 :: b3 :: b4 :: b5 :: b6 :: b7 :: b8 :: _ => some ⟨b0, b1, ⟨b2, b3, b4, b5, b6, b7⟩, b8⟩
  | _ => none

/-- The 72-bit vector of a frame, `F[0]` in bits 71:64 and `F[8]` in bits 7:0 (00_scope.md R8). -/
def Frame.toBits (f : Frame) : BitVec 72 :=
  f.hdr ++ f.code ++ f.payload.p0 ++ f.payload.p1 ++ f.payload.p2 ++ f.payload.p3 ++ f.payload.p4 ++ f.payload.p5 ++ f.cs

/-- A 72-bit vector as a frame (00_scope.md R8). -/
def Frame.ofBits (v : BitVec 72) : Frame :=
  ⟨v.extractLsb' 64 8, v.extractLsb' 56 8, Payload.ofBits (v.extractLsb' 8 48), v.extractLsb' 0 8⟩

end Sys2Proof
end

