-- ==== Sys2Proof/Machine/Codes.lean ====
section
/-! DEFINITION. The CommandCode model and the checksum, shared by encoder and decoder (40_command_codes.md), with
the constants of 00_scope.md R5. -/

namespace Sys2Proof

/-- `HEADER` (R5). -/
abbrev headerByte : Byte := 0xFF

/-- `FRAME_LEN` (R5). -/
abbrev frameLen : Nat := 9

/-- `OFFSET_MAX` (R5): the largest config-area offset. -/
abbrev offsetMax : Nat := 1023

/-- The largest offset-low byte of a concrete sub-code (30_encoding.md R53, decision D16). -/
abbrev offsetLowMax : Nat := 255

/-- `ABC_ON_BYTE` (R5). -/
abbrev abcOnByte : Byte := 0xA0

/-- `INTERVAL_TAG` (R5). -/
abbrev intervalTag : Byte := 2

/-- `CODES`, the closed set of 13 (R70). -/
def codes : List Byte := [0x79, 0x7D, 0x7E, 0x80, 0x81, 0x82, 0x83, 0x8D, 0x90, 0x91, 0x92, 0x93, 0xA0]

/-- `is_code(b)` (R70). -/
def isCode (b : Byte) : Bool := codes.contains b

/-- `is_generic(c)` (R71). -/
def isGeneric (c : Byte) : Bool := c == 0x80 || c == 0x90

/-- The sub-codes of the write family (R72). -/
def writeFamily : List Byte := [0x80, 0x81, 0x82, 0x83]

/-- The sub-codes of the read family (R72). -/
def readFamily : List Byte := [0x90, 0x91, 0x92, 0x93]

/-- `argc_req(c)`, the arguments a member code takes (R72); none outside `CODES`, where it is not defined. -/
def argcReq (c : Byte) : Option (BitVec 2) :=
  if writeFamily.contains c then some 2
  else if readFamily.contains c || c == 0x79 || c == 0x7E then some 1
  else if c == 0x7D || c == 0x8D || c == 0xA0 then some 0
  else none

/-- `resolve_family(g, off)` (R73): the concrete code `g + (off >> 8)` and the byte `off & 0xFF`; none outside its
precondition, which no rule gives a value (93_implementation_defined.md U1, U2). -/
def resolveFamily (g : Byte) (off : BitVec 16) : Option (Byte × Byte) :=
  if isGeneric g && decide (off.toNat ≤ offsetMax) then
    some (g + (off >>> 8).setWidth 8, (off &&& 0xFF).setWidth 8)
  else none

/-- The sum of the bytes as an integer (R74). -/
def byteSum (b : List Byte) : Nat := (b.map BitVec.toNat).sum

/-- `checksum(b)`, applied to the seven bytes `F[1..8]` and to nothing else (R74), D0's formula kept literally. -/
def checksum (b : List Byte) : Byte := BitVec.ofNat 8 (((0xFF - (byteSum b &&& 0xFF)) + 1) &&& 0xFF)

/-- `valid(W)`: the header byte and the checksum, and nothing else (42_decoder.md R113). -/
def Frame.valid (w : Frame) : Bool := w.hdr == headerByte && checksum w.body == w.cs

end Sys2Proof
end

