-- ==== Sys2Proof/Machine/Operands.lean ====
section
/-! DEFINITION. Operand assembly: every payload layout of 30_encoding.md R52, R53 in both directions, and the
assembly of a frame (41_encoder.md R97). -/

namespace Sys2Proof

/-- Format Z: six zero bytes. -/
def layoutZ : Payload := ⟨0, 0, 0, 0, 0, 0⟩

/-- Format B: `P[0] = 0xA0` if `enc_arg0 != 0`, else `0x00` (R53, decision D15). -/
def layoutB (arg0 : BitVec 16) : Payload := ⟨if arg0 ≠ 0 then abcOnByte else 0, 0, 0, 0, 0, 0⟩

/-- Format I: the tag 2, then the interval big-endian (R30, R53). -/
def layoutI (iv : BitVec 16) : Payload := ⟨intervalTag, (be16 iv).1, (be16 iv).2, 0, 0, 0⟩

/-- Format W: the offset-low byte, then the value big-endian (R30, R53). -/
def layoutW (lo : Byte) (val : BitVec 32) : Payload :=
  ⟨lo, (be32 val).1, (be32 val).2.1, (be32 val).2.2.1, (be32 val).2.2.2, 0⟩

/-- Format R: the offset-low byte. -/
def layoutR (lo : Byte) : Payload := ⟨lo, 0, 0, 0, 0, 0⟩

/-- Format X: the override, verbatim (R53, R81). -/
def layoutX (raw : BitVec 48) : Payload := Payload.ofBits raw

/-- Format A, inbound: `abc = (P[ABC_IDX] != 0)` (R53, 42_decoder.md R119). -/
def abcStatus (idx : Fin 6) (p : Payload) : Bool := p.get idx != 0

/-- ASCII: bit 7 clear (42_decoder.md R120, decision D12). -/
def isAscii (b : Byte) : Bool := decide (b.toNat ≤ 0x7F)

/-- Format V, inbound: `P[0..4]` are four ASCII characters (R53, 42_decoder.md R120). -/
def versionOk (p : Payload) : Bool := isAscii p.p0 && isAscii p.p1 && isAscii p.p2 && isAscii p.p3

/-- Frame assembly (R97): header, resolved code, payload, computed checksum. -/
def assemble (c : Byte) (p : Payload) : Frame := ⟨headerByte, c, p, checksum (c :: p.toBytes)⟩

end Sys2Proof
end

