-- ==== Sys2Proof/Machine/State.lean ====
section
/-! DEFINITION. The state, the Event record, the answers of the encoder, the stimuli, and the reasons a step could
stop (10_state.md, 60_exceptions.md). -/

namespace Sys2Proof.Machine

/-- The firmware version: four ASCII characters, the first is `P[0]` (10_state.md R17). -/
structure Version where
  c0 : Byte
  c1 : Byte
  c2 : Byte
  c3 : Byte
deriving DecidableEq, Repr

/-- `parse_error` when present (10_state.md R17): the closed reasons; their absence is `PE_NONE`. -/
inductive ParseError where
  /-- `PE_UNRECOGNISED_CODE`, code 1. -/
  | unrecognisedCode
  /-- `PE_VERSION_NOT_ASCII`, code 2. -/
  | versionNotAscii
deriving DecidableEq, Repr

/-- The Event record (10_state.md R17). -/
structure Event where
  code : Byte
  raw : Payload
  checksum : Byte
  abc : Option Bool
  version : Option Version
  parseError : Option ParseError
deriving DecidableEq, Repr

/-- The causes of `InvalidArgument` (60_exceptions.md R142); their absence is `EE_NONE`. -/
inductive EncErr where
  /-- `EE_BAD_CODE`, code 1. -/
  | badCode
  /-- `EE_ARGC`, code 2. -/
  | argc
  /-- `EE_RANGE`, code 3. -/
  | range
deriving DecidableEq, Repr

/-- The answer of the encoder to one request (10_state.md R26). A refusal holds no frame: `enc_frame` is
unspecified then (93_implementation_defined.md U6). -/
inductive EncResult where
  | frame (f : Frame)
  | refusal (cause : EncErr)
deriving DecidableEq, Repr

/-- What the outside world presents in one step (10_state.md R24, R26; notes/assumptions/1.md). -/
inductive Stimulus where
  /-- One rising clock edge with the decoder's input ports. -/
  | edge (rst rxValid : Bool) (rxData : Byte)
  /-- One evaluation of the encoder on its input ports. -/
  | request (r : EncRequest)
deriving DecidableEq, Repr

/-- The state. `buf` is the whole architectural state (10_state.md R10, R16, R19); `ev` and `enc` hold the output
ports of the last edge and the last request (notes/assumptions/3.md); `sink` and `inbox` are the outside world's
(notes/assumptions/1.md, notes/assumptions/5.md). -/
structure State where
  /-- The carry-over buffer, oldest byte first (R10). -/
  buf : List Byte
  /-- The `ev_*` ports as the last clock edge left them: the Event it emitted, or `ev_valid = 0` (R25). -/
  ev : Option Event
  /-- The `enc_*` output ports for the last request presented (R26). -/
  enc : Option EncResult
  /-- The Events delivered to the Event Sink, oldest first (42_decoder.md R125). -/
  sink : List Event
  /-- The stimuli still to come, next first. -/
  inbox : List Stimulus
deriving DecidableEq, Repr

/-- No fault exists: the decoder raises nothing (60_exceptions.md R144), the encoder's only exception is taken as a
next state (R141), and its invariant violation cannot be expressed (R143). No instruction raises one; safe. -/
inductive Fault
deriving DecidableEq, Repr

/-- Why an instruction would have no meaning. -/
inductive Refusal where
  /-- Raised by an arm of `exec` whose instruction has no meaning yet; safe. No arm does. -/
  | notModelled (mnemonic : String)
deriving DecidableEq, Repr

/-- The machine right after reset (10_state.md R22): the buffer empty, `ev_valid = 0`. No request has been
presented yet (notes/assumptions/4.md), the sink has received nothing, and nothing is waiting. -/
def State.reset : State := ⟨[], none, none, [], []⟩

end Sys2Proof.Machine
end

