-- ==== Sys2Proof/Machine/Ops.lean ====
section
/-! DEFINITION. The named operations over the state: the three accesses to the buffer (20_memory.md R33), the
delivery of an Event, the block's reset, and the encoder's answer and exception. -/

namespace Sys2Proof.Machine

/-- What a meaning answers. -/
abbrev Result := Host.Outcome State Fault Refusal

/-! ### The buffer -/

/-- `append(buf, [b])` (R33). -/
def State.append (b : Byte) (s : State) : State := { s with buf := s.buf ++ [b] }

/-- `drop(n, buf)` (R33). -/
def State.drop (n : Nat) (s : State) : State := { s with buf := s.buf.drop n }

/-! ### The Event ports -/

/-- `emit(E)` (42_decoder.md R125): presented on the ports and delivered to the sink, once. -/
def State.emit (e : Event) (s : State) : State := { s with ev := some e, sink := s.sink ++ [e] }

/-- An edge that emits nothing: `ev_valid = 0` (10_state.md R25). -/
def State.quiet (s : State) : State := { s with ev := none }

/-- The block's reset (70_reset_and_hazards.md R160): the buffer emptied, `ev_valid = 0`, nothing else. -/
def State.blockReset (s : State) : State := { s with buf := [], ev := none }

/-- An Event with no typed field and no parse error (42_decoder.md R123, R124). -/
def plainEvent (code : Byte) (p : Payload) (cs : Byte) : Event := ⟨code, p, cs, none, none, none⟩

/-- A valid window is consumed whole and its Event delivered (42_decoder.md R116, R125). -/
def deliver (e : Event) (s : State) : Result := .next ((s.drop frameLen).emit e)

/-! ### The encoder ports -/

/-- `enc_ok = 1` with a frame (41_encoder.md R80, step 6). -/
def State.answer (f : Frame) (s : State) : State := { s with enc := some (.frame f) }

/-- TAKING THE EXCEPTION `InvalidArgument(cause)` (60_exceptions.md R141, R148): `enc_ok = 0`, `enc_err = cause`, no
frame, nothing saved and nothing else changed. There is no return from it: it belongs to one evaluation (R149). -/
def State.raiseInvalidArgument (cause : EncErr) (s : State) : State := { s with enc := some (.refusal cause) }

/-- The frame of a resolved code and its payload is the answer (41_encoder.md R97). -/
def send (c : Byte) (p : Payload) (s : State) : Result := .next (s.answer (assemble c p))

/-- Required arguments present, or `EE_ARGC` (41_encoder.md R80 step 3, R85). -/
def requireArgc (code : Byte) (a : Args) (s : State) (go : Result) : Result :=
  if argcReq code = some a.argc then go else .next (s.raiseInvalidArgument .argc)

/-- A direct sub-code's offset-low byte in range, or `EE_RANGE` (41_encoder.md R80 step 4, decision D16). -/
def requireOffsetLow (a : Args) (s : State) (go : Byte → Result) : Result :=
  if a.arg0.toNat ≤ offsetLowMax then go (a.arg0.setWidth 8) else .next (s.raiseInvalidArgument .range)

/-- A generic code resolved by its offset, or `EE_RANGE` (41_encoder.md R80 step 4; 40_command_codes.md R73). -/
def requireResolved (code : Byte) (a : Args) (s : State) (go : Byte → Byte → Result) : Result :=
  match resolveFamily code a.arg0 with
  | some (c, lo) => go c lo
  | none => .next (s.raiseInvalidArgument .range)

end Sys2Proof.Machine
end

