-- ==== Sys2Proof/Machine/Commands.lean ====
section
/-! DEFINITION. The encoder's plain commands and the raw override (41_encoder.md R81 to R84, R90, R96). -/

namespace Sys2Proof.Machine

/-- TOGGLE_ABC (R82): format B; `EE_ARGC` unless one argument. -/
def execToggleAbc (a : Args) (s : State) : Result := requireArgc 0x79 a s (send 0x79 (layoutB a.arg0) s)

/-- QUERY_ABC (R83): format Z; `EE_ARGC` unless no argument. -/
def execQueryAbc (a : Args) (s : State) : Result := requireArgc 0x7D a s (send 0x7D layoutZ s)

/-- SET_INTERVAL (R84): format I, every interval accepted; `EE_ARGC` unless one argument. -/
def execSetInterval (a : Args) (s : State) : Result := requireArgc 0x7E a s (send 0x7E (layoutI a.arg0) s)

/-- RESET (R90): format Z; `EE_ARGC` unless no argument. It does not touch the decoder (R163). -/
def execReset (a : Args) (s : State) : Result := requireArgc 0x8D a s (send 0x8D layoutZ s)

/-- QUERY_FW_VERSION (R96): format Z; `EE_ARGC` unless no argument. -/
def execQueryFwVersion (a : Args) (s : State) : Result := requireArgc 0xA0 a s (send 0xA0 layoutZ s)

/-- RAW (R81): the payload verbatim, no resolution and no argument check; `EE_BAD_CODE` unless the code is a
member. -/
def execRaw (code : Byte) (raw : BitVec 48) (s : State) : Result :=
  if isCode code then send code (layoutX raw) s else .next (s.raiseInvalidArgument .badCode)

end Sys2Proof.Machine
end

