-- ==== Sys2Proof/Machine/ConfigArea.lean ====
section
/-! DEFINITION. The encoder's config-area commands: the two generic codes, their pseudo-forms, and the concrete
sub-codes given directly (41_encoder.md R86 to R89, R91 to R95; 30_encoding.md R60). -/

namespace Sys2Proof.Machine

/-- Step 4 and 5 of R80 for the generic write code (R86): resolve, then format W. -/
def genericWrite (a : Args) (s : State) : Result :=
  requireArgc 0x80 a s (requireResolved 0x80 a s fun c lo => send c (layoutW lo a.arg1) s)

/-- Step 4 and 5 of R80 for the generic read code (R91): resolve, then format R. -/
def genericRead (a : Args) (s : State) : Result :=
  requireArgc 0x90 a s (requireResolved 0x90 a s fun c lo => send c (layoutR lo) s)

/-- A concrete write sub-code (R87): no resolution, format W. -/
def directWrite (code : Byte) (a : Args) (s : State) : Result :=
  requireArgc code a s (requireOffsetLow a s fun lo => send code (layoutW lo a.arg1) s)

/-- A concrete read sub-code (R92): no resolution, format R. -/
def directRead (code : Byte) (a : Args) (s : State) : Result :=
  requireArgc code a s (requireOffsetLow a s fun lo => send code (layoutR lo) s)

/-- WRITE_CONFIG (R86): code 0x80 is always the generic command. -/
def execWriteConfig (a : Args) (s : State) : Result := genericWrite a s

/-- WRITE_CONFIG_1 (R87). -/
def execWriteConfig1 (a : Args) (s : State) : Result := directWrite 0x81 a s

/-- WRITE_CONFIG_2 (R88). -/
def execWriteConfig2 (a : Args) (s : State) : Result := directWrite 0x82 a s

/-- WRITE_CONFIG_3 (R89). -/
def execWriteConfig3 (a : Args) (s : State) : Result := directWrite 0x83 a s

/-- READ_CONFIG (R91): code 0x90 is always the generic command. -/
def execReadConfig (a : Args) (s : State) : Result := genericRead a s

/-- READ_CONFIG_1 (R92). -/
def execReadConfig1 (a : Args) (s : State) : Result := directRead 0x91 a s

/-- READ_CONFIG_2 (R93). -/
def execReadConfig2 (a : Args) (s : State) : Result := directRead 0x92 a s

/-- READ_CONFIG_3 (R95). -/
def execReadConfig3 (a : Args) (s : State) : Result := directRead 0x93 a s

/-- WRITE_CONFIG.generic, the pseudo-instruction (R60, R86). -/
def execWriteConfigGeneric (a : Args) (s : State) : Result := genericWrite a s

/-- READ_CONFIG.generic, the pseudo-instruction (R60, R91). -/
def execReadConfigGeneric (a : Args) (s : State) : Result := genericRead a s

end Sys2Proof.Machine
end

