-- ==== Sys2Proof/Machine/Responses.lean ====
section
/-! DEFINITION. The decoder's semantic cases (42_decoder.md R117 to R123). Each runs inside the step that received
the ninth byte, with the window at the front of `buf`: it consumes the window and delivers its Event. -/

namespace Sys2Proof.Machine

/-- RX_ABC_STATUS (R119): `abc` from the byte `P[ABC_IDX]`; never a parse error. -/
def execRxAbcStatus (p : Payload) (cs : Byte) (s : State) : Result :=
  deliver ⟨0x7D, p, cs, some (abcStatus Config.abcIdx p), none, none⟩ s

/-- RX_FW_VERSION (R120): `version` when the four characters are ASCII, else `PE_VERSION_NOT_ASCII`. -/
def execRxFwVersion (p : Payload) (cs : Byte) (s : State) : Result :=
  if versionOk p then deliver ⟨0xA0, p, cs, none, some ⟨p.p0, p.p1, p.p2, p.p3⟩, none⟩ s
  else deliver ⟨0xA0, p, cs, none, none, some .versionNotAscii⟩ s

/-- RX_TOGGLE_ABC (R123). -/
def execRxToggleAbc (p : Payload) (cs : Byte) (s : State) : Result := deliver (plainEvent 0x79 p cs) s

/-- RX_SET_INTERVAL (R123). -/
def execRxSetInterval (p : Payload) (cs : Byte) (s : State) : Result := deliver (plainEvent 0x7E p cs) s

/-- RX_WRITE_CONFIG (R123). -/
def execRxWriteConfig (p : Payload) (cs : Byte) (s : State) : Result := deliver (plainEvent 0x80 p cs) s

/-- RX_WRITE_CONFIG_1 (R123). -/
def execRxWriteConfig1 (p : Payload) (cs : Byte) (s : State) : Result := deliver (plainEvent 0x81 p cs) s

/-- RX_WRITE_CONFIG_2 (R123). -/
def execRxWriteConfig2 (p : Payload) (cs : Byte) (s : State) : Result := deliver (plainEvent 0x82 p cs) s

/-- RX_WRITE_CONFIG_3 (R123). -/
def execRxWriteConfig3 (p : Payload) (cs : Byte) (s : State) : Result := deliver (plainEvent 0x83 p cs) s

/-- RX_RESET (R123). -/
def execRxReset (p : Payload) (cs : Byte) (s : State) : Result := deliver (plainEvent 0x8D p cs) s

/-- RX_READ_CONFIG (R123). -/
def execRxReadConfig (p : Payload) (cs : Byte) (s : State) : Result := deliver (plainEvent 0x90 p cs) s

/-- RX_READ_CONFIG_1 (R123). -/
def execRxReadConfig1 (p : Payload) (cs : Byte) (s : State) : Result := deliver (plainEvent 0x91 p cs) s

/-- RX_READ_CONFIG_2 (R123). -/
def execRxReadConfig2 (p : Payload) (cs : Byte) (s : State) : Result := deliver (plainEvent 0x92 p cs) s

/-- RX_READ_CONFIG_3 (R123). -/
def execRxReadConfig3 (p : Payload) (cs : Byte) (s : State) : Result := deliver (plainEvent 0x93 p cs) s

/-- RX_UNRECOGNISED (R122): no decode is attempted; the Event says `PE_UNRECOGNISED_CODE`, never dropped. -/
def execRxUnrecognised (code : Byte) (p : Payload) (cs : Byte) (s : State) : Result :=
  deliver ⟨code, p, cs, none, none, some .unrecognisedCode⟩ s

end Sys2Proof.Machine
end

