-- ==== Sys2Proof/Machine/Dispatch.lean ====
section
/-! DEFINITION. One arm per instruction: a direct call of its meaning. -/

namespace Sys2Proof.Machine

def exec (i : Instr) (s : State) : Host.Outcome State Fault Refusal :=
  match i with
  | .toggleAbc a => Sys2Proof.Machine.execToggleAbc a s
  | .queryAbc a => Sys2Proof.Machine.execQueryAbc a s
  | .setInterval a => Sys2Proof.Machine.execSetInterval a s
  | .writeConfig a => Sys2Proof.Machine.execWriteConfig a s
  | .writeConfig1 a => Sys2Proof.Machine.execWriteConfig1 a s
  | .writeConfig2 a => Sys2Proof.Machine.execWriteConfig2 a s
  | .writeConfig3 a => Sys2Proof.Machine.execWriteConfig3 a s
  | .reset a => Sys2Proof.Machine.execReset a s
  | .readConfig a => Sys2Proof.Machine.execReadConfig a s
  | .readConfig1 a => Sys2Proof.Machine.execReadConfig1 a s
  | .readConfig2 a => Sys2Proof.Machine.execReadConfig2 a s
  | .readConfig3 a => Sys2Proof.Machine.execReadConfig3 a s
  | .queryFwVersion a => Sys2Proof.Machine.execQueryFwVersion a s
  | .raw code raw => Sys2Proof.Machine.execRaw code raw s
  | .writeConfigGeneric a => Sys2Proof.Machine.execWriteConfigGeneric a s
  | .readConfigGeneric a => Sys2Proof.Machine.execReadConfigGeneric a s
  | .rxAbcStatus p cs => Sys2Proof.Machine.execRxAbcStatus p cs s
  | .rxFwVersion p cs => Sys2Proof.Machine.execRxFwVersion p cs s
  | .rxToggleAbc p cs => Sys2Proof.Machine.execRxToggleAbc p cs s
  | .rxSetInterval p cs => Sys2Proof.Machine.execRxSetInterval p cs s
  | .rxWriteConfig p cs => Sys2Proof.Machine.execRxWriteConfig p cs s
  | .rxWriteConfig1 p cs => Sys2Proof.Machine.execRxWriteConfig1 p cs s
  | .rxWriteConfig2 p cs => Sys2Proof.Machine.execRxWriteConfig2 p cs s
  | .rxWriteConfig3 p cs => Sys2Proof.Machine.execRxWriteConfig3 p cs s
  | .rxReset p cs => Sys2Proof.Machine.execRxReset p cs s
  | .rxReadConfig p cs => Sys2Proof.Machine.execRxReadConfig p cs s
  | .rxReadConfig1 p cs => Sys2Proof.Machine.execRxReadConfig1 p cs s
  | .rxReadConfig2 p cs => Sys2Proof.Machine.execRxReadConfig2 p cs s
  | .rxReadConfig3 p cs => Sys2Proof.Machine.execRxReadConfig3 p cs s
  | .rxUnrecognised code p cs => Sys2Proof.Machine.execRxUnrecognised code p cs s

end Sys2Proof.Machine
end

