-- ==== Sys2Proof/WellFormed.lean ====
section
/-! DEFINITION. Well-formed instructions: the requests the encoder accepts (41_encoder.md R85, 60_exceptions.md
R142) and the windows the decoder accepts (42_decoder.md R113, R117). -/

namespace Sys2Proof

/-- The argument count is the one the code requires (R85). -/
def Args.countOk (a : Args) (code : Byte) : Bool := argcReq code == some a.argc

/-- A generic offset is in 0 to 1023 (R86, R91). -/
def Args.offsetOk (a : Args) : Bool := decide (a.arg0.toNat ≤ offsetMax)

/-- The argument of a concrete sub-code is in 0 to 255 (decision D16). -/
def Args.offsetLowOk (a : Args) : Bool := decide (a.arg0.toNat ≤ offsetLowMax)

/-- Each check by name: the count, the two ranges, code membership of a raw frame (R81), the checksum of a window
(R113), and non-membership of an unrecognised code (R122). -/
def Instr.wf (i : Instr) : Bool :=
  match i with
  | .toggleAbc a => a.countOk 0x79
  | .queryAbc a => a.countOk 0x7D
  | .setInterval a => a.countOk 0x7E
  | .writeConfig a => a.countOk 0x80 && a.offsetOk
  | .writeConfig1 a => a.countOk 0x81 && a.offsetLowOk
  | .writeConfig2 a => a.countOk 0x82 && a.offsetLowOk
  | .writeConfig3 a => a.countOk 0x83 && a.offsetLowOk
  | .reset a => a.countOk 0x8D
  | .readConfig a => a.countOk 0x90 && a.offsetOk
  | .readConfig1 a => a.countOk 0x91 && a.offsetLowOk
  | .readConfig2 a => a.countOk 0x92 && a.offsetLowOk
  | .readConfig3 a => a.countOk 0x93 && a.offsetLowOk
  | .queryFwVersion a => a.countOk 0xA0
  | .raw code _ => isCode code
  | .writeConfigGeneric a => a.countOk 0x80 && a.offsetOk
  | .readConfigGeneric a => a.countOk 0x90 && a.offsetOk
  | .rxAbcStatus p cs => checksum (0x7D :: p.toBytes) == cs
  | .rxFwVersion p cs => checksum (0xA0 :: p.toBytes) == cs
  | .rxToggleAbc p cs => checksum (0x79 :: p.toBytes) == cs
  | .rxSetInterval p cs => checksum (0x7E :: p.toBytes) == cs
  | .rxWriteConfig p cs => checksum (0x80 :: p.toBytes) == cs
  | .rxWriteConfig1 p cs => checksum (0x81 :: p.toBytes) == cs
  | .rxWriteConfig2 p cs => checksum (0x82 :: p.toBytes) == cs
  | .rxWriteConfig3 p cs => checksum (0x83 :: p.toBytes) == cs
  | .rxReset p cs => checksum (0x8D :: p.toBytes) == cs
  | .rxReadConfig p cs => checksum (0x90 :: p.toBytes) == cs
  | .rxReadConfig1 p cs => checksum (0x91 :: p.toBytes) == cs
  | .rxReadConfig2 p cs => checksum (0x92 :: p.toBytes) == cs
  | .rxReadConfig3 p cs => checksum (0x93 :: p.toBytes) == cs
  | .rxUnrecognised code p cs => !isCode code && checksum (code :: p.toBytes) == cs

end Sys2Proof
end

