-- ==== Sys2Proof/Decode.lean ====
section
/-! DEFINITION. From bits to instructions and back. The machine reaches an instruction in two ways: the encoder's
ports name an encoder operation (`decodeRequest`), and the nine bytes at the front of the buffer name a decoder
case (`decodeRx`). `decodeTx` reads an outbound wire frame by the opcode table (30_encoding.md R54). The encoders
stand after the decoders. -/

namespace Sys2Proof

/-- Why bytes or ports name no instruction. -/
inductive DecodeError where
  /-- Fewer than nine bytes (42_decoder.md R114). -/
  | incomplete
  /-- `W[0]` is not 0xFF (R113). -/
  | badHeader
  /-- `W[8]` is not `checksum(W[1..8])` (R113). -/
  | badChecksum
  /-- The code byte is not a member of `CODES` (30_encoding.md R55). -/
  | badCode
deriving DecidableEq, Repr

/-- The column "direction" of an instruction's row. -/
def Instr.direction (i : Instr) : Direction :=
  match i with
  | .toggleAbc _ => .tx
  | .queryAbc _ => .tx
  | .setInterval _ => .tx
  | .writeConfig _ => .tx
  | .writeConfig1 _ => .tx
  | .writeConfig2 _ => .tx
  | .writeConfig3 _ => .tx
  | .reset _ => .tx
  | .readConfig _ => .tx
  | .readConfig1 _ => .tx
  | .readConfig2 _ => .tx
  | .readConfig3 _ => .tx
  | .queryFwVersion _ => .tx
  | .raw _ _ => .tx
  | .writeConfigGeneric _ => .tx
  | .readConfigGeneric _ => .tx
  | .rxAbcStatus _ _ => .rx
  | .rxFwVersion _ _ => .rx
  | .rxToggleAbc _ _ => .rx
  | .rxSetInterval _ _ => .rx
  | .rxWriteConfig _ _ => .rx
  | .rxWriteConfig1 _ _ => .rx
  | .rxWriteConfig2 _ _ => .rx
  | .rxWriteConfig3 _ _ => .rx
  | .rxReset _ _ => .rx
  | .rxReadConfig _ _ => .rx
  | .rxReadConfig1 _ _ => .rx
  | .rxReadConfig2 _ _ => .rx
  | .rxReadConfig3 _ _ => .rx
  | .rxUnrecognised _ _ _ => .rx

/-! ### The decoder's classification of a window -/

/-- The case of a valid window, by its code byte alone (42_decoder.md R117). -/
def windowInstr (w : Frame) : Instr :=
  if w.code = 0x79 then .rxToggleAbc w.payload w.cs
  else if w.code = 0x7D then .rxAbcStatus w.payload w.cs
  else if w.code = 0x7E then .rxSetInterval w.payload w.cs
  else if w.code = 0x80 then .rxWriteConfig w.payload w.cs
  else if w.code = 0x81 then .rxWriteConfig1 w.payload w.cs
  else if w.code = 0x82 then .rxWriteConfig2 w.payload w.cs
  else if w.code = 0x83 then .rxWriteConfig3 w.payload w.cs
  else if w.code = 0x8D then .rxReset w.payload w.cs
  else if w.code = 0x90 then .rxReadConfig w.payload w.cs
  else if w.code = 0x91 then .rxReadConfig1 w.payload w.cs
  else if w.code = 0x92 then .rxReadConfig2 w.payload w.cs
  else if w.code = 0x93 then .rxReadConfig3 w.payload w.cs
  else if w.code = 0xA0 then .rxFwVersion w.payload w.cs
  else .rxUnrecognised w.code w.payload w.cs

/-- The validity test on a frame, with the reason of a rejection (R113; no observable depends on the order). -/
def checkFrame (w : Frame) : Except DecodeError Frame :=
  if w.hdr ≠ headerByte then .error .badHeader
  else if checksum w.body ≠ w.cs then .error .badChecksum
  else .ok w

/-- The instruction at the front of the buffer (42_decoder.md R111, R113, R114, R117). -/
def decodeRx (b : List Byte) : Except DecodeError Instr :=
  match Frame.ofBytes b with
  | none => .error .incomplete
  | some w =>
    match checkFrame w with
    | .error e => .error e
    | .ok w => .ok (windowInstr w)

/-! ### The encoder's ports -/

/-- The row a request with code 0x80 or 0x90 names: the row of the code itself for offsets 0 to 255, the row of the
pseudo-form otherwise. The two rows of a family have one meaning, so no output depends on this
(notes/assumptions/9.md, DESIGN CHOICE, safe). -/
def genericRow (a : Args) (row pseudo : Args → Instr) : Instr :=
  if a.offsetLowOk then row a else pseudo a

/-- The operation a request names (41_encoder.md R80, R81; 40_command_codes.md R71): with the override RAW whatever
the code, else by the code; a code outside `CODES` names none. -/
def decodeRequest (r : EncRequest) : Except DecodeError Instr :=
  if r.rawEn then .ok (.raw r.code r.raw)
  else if r.code = 0x79 then .ok (.toggleAbc r.args)
  else if r.code = 0x7D then .ok (.queryAbc r.args)
  else if r.code = 0x7E then .ok (.setInterval r.args)
  else if r.code = 0x80 then .ok (genericRow r.args .writeConfig .writeConfigGeneric)
  else if r.code = 0x81 then .ok (.writeConfig1 r.args)
  else if r.code = 0x82 then .ok (.writeConfig2 r.args)
  else if r.code = 0x83 then .ok (.writeConfig3 r.args)
  else if r.code = 0x8D then .ok (.reset r.args)
  else if r.code = 0x90 then .ok (genericRow r.args .readConfig .readConfigGeneric)
  else if r.code = 0x91 then .ok (.readConfig1 r.args)
  else if r.code = 0x92 then .ok (.readConfig2 r.args)
  else if r.code = 0x93 then .ok (.readConfig3 r.args)
  else if r.code = 0xA0 then .ok (.queryFwVersion r.args)
  else .error .badCode

/-! ### Outbound wire frames -/

/-- Offset-low byte and value of a write frame as arguments (30_encoding.md R52, format W). -/
def writeArgs (p : Payload) : Args := ⟨2, p.p0.setWidth 16, p.p1 ++ p.p2 ++ p.p3 ++ p.p4⟩

/-- Offset-low byte of a read frame as an argument (30_encoding.md R52, format R). -/
def readArgs (p : Payload) : Args := ⟨1, p.p0.setWidth 16, 0⟩

/-- `P[5]` is zero fill (R57). -/
def Payload.fitsW (p : Payload) : Bool := p.p5 == 0

/-- `P[1]` to `P[5]` are zero fill (R57). -/
def Payload.fitsR (p : Payload) : Bool := p.p1 == 0 && p.p2 == 0 && p.p3 == 0 && p.p4 == 0 && p.p5 == 0

/-- Format B: 0xA0 or 0x00 and zero fill. -/
def Payload.fitsB (p : Payload) : Bool := (p.p0 == abcOnByte || p.p0 == 0) && p.fitsR

/-- Format I: the tag 2, the interval, zero fill. -/
def Payload.fitsI (p : Payload) : Bool := p.p0 == intervalTag && p.p3 == 0 && p.p4 == 0 && p.p5 == 0

/-- The first row of the opcode table, among the 13 wire codes in its direction tx, that a frame fits (its bits
under the row's mask are the row's match). The checksum byte is under the mask in the three constant rows only. -/
def layoutCommand (f : Frame) : Option Instr :=
  if f.code = 0x79 ∧ f.payload.fitsB then
    some (.toggleAbc ⟨1, if f.payload.p0 = abcOnByte then 1 else 0, 0⟩)
  else if f.code = 0x7D ∧ f.payload = ⟨0, 0, 0, 0, 0, 0⟩ ∧ f.cs = 0x83 then some (.queryAbc ⟨0, 0, 0⟩)
  else if f.code = 0x7E ∧ f.payload.fitsI then some (.setInterval ⟨1, f.payload.p1 ++ f.payload.p2, 0⟩)
  else if f.code = 0x80 ∧ f.payload.fitsW then some (.writeConfig (writeArgs f.payload))
  else if f.code = 0x81 ∧ f.payload.fitsW then some (.writeConfig1 (writeArgs f.payload))
  else if f.code = 0x82 ∧ f.payload.fitsW then some (.writeConfig2 (writeArgs f.payload))
  else if f.code = 0x83 ∧ f.payload.fitsW then some (.writeConfig3 (writeArgs f.payload))
  else if f.code = 0x8D ∧ f.payload = ⟨0, 0, 0, 0, 0, 0⟩ ∧ f.cs = 0x73 then some (.reset ⟨0, 0, 0⟩)
  else if f.code = 0x90 ∧ f.payload.fitsR then some (.readConfig (readArgs f.payload))
  else if f.code = 0x91 ∧ f.payload.fitsR then some (.readConfig1 (readArgs f.payload))
  else if f.code = 0x92 ∧ f.payload.fitsR then some (.readConfig2 (readArgs f.payload))
  else if f.code = 0x93 ∧ f.payload.fitsR then some (.readConfig3 (readArgs f.payload))
  else if f.code = 0xA0 ∧ f.payload = ⟨0, 0, 0, 0, 0, 0⟩ ∧ f.cs = 0x60 then some (.queryFwVersion ⟨0, 0, 0⟩)
  else none

/-- The command an outbound frame is (R54, R55, R57): a layout of its code where it fits one, else a raw override;
an invalid frame or one with a code outside `CODES` is none the encoder builds (41_encoder.md R94). -/
def decodeTx (f : Frame) : Except DecodeError Instr :=
  match checkFrame f with
  | .error e => .error e
  | .ok f =>
    if isCode f.code then .ok ((layoutCommand f).getD (.raw f.code f.payload.toBits))
    else .error .badCode

/-! ### Encoders -/

/-- The wire code of a family, as the table's fields give it: six base bits, then the block `off[9:8]`. -/
def familyCode (base : BitVec 6) (off : BitVec 16) : Byte := base ++ off.extractLsb' 8 2

/-- The payload of a write frame, field by field (30_encoding.md R52, row W). -/
def writeFields (a : Args) : Payload :=
  ⟨a.arg0.extractLsb' 0 8, a.arg1.extractLsb' 24 8, a.arg1.extractLsb' 16 8, a.arg1.extractLsb' 8 8,
    a.arg1.extractLsb' 0 8, 0⟩

/-- The payload of a read frame, field by field (30_encoding.md R52, row R). -/
def readFields (a : Args) : Payload := ⟨a.arg0.extractLsb' 0 8, 0, 0, 0, 0, 0⟩

/-- A frame with its checksum field filled in (30_encoding.md R51). -/
def wireFrame (code : Byte) (p : Payload) : Frame := ⟨0xFF, code, p, checksum (code :: p.toBytes)⟩

/-- The nine bytes of an instruction by the tables of 30_encoding.md (R50, R52, R54, R60): of an encoder operation
the frame on the wire, of a decoder case its window. -/
def encode (i : Instr) : Frame :=
  match i with
  | .toggleAbc a => wireFrame 0x79 ⟨if a.arg0 = 0 then 0x00 else 0xA0, 0, 0, 0, 0, 0⟩
  | .queryAbc _ => ⟨0xFF, 0x7D, ⟨0, 0, 0, 0, 0, 0⟩, 0x83⟩
  | .setInterval a => wireFrame 0x7E ⟨0x02, a.arg0.extractLsb' 8 8, a.arg0.extractLsb' 0 8, 0, 0, 0⟩
  | .writeConfig a => wireFrame (familyCode 0x20 a.arg0) (writeFields a)
  | .writeConfig1 a => wireFrame 0x81 (writeFields a)
  | .writeConfig2 a => wireFrame 0x82 (writeFields a)
  | .writeConfig3 a => wireFrame 0x83 (writeFields a)
  | .reset _ => ⟨0xFF, 0x8D, ⟨0, 0, 0, 0, 0, 0⟩, 0x73⟩
  | .readConfig a => wireFrame (familyCode 0x24 a.arg0) (readFields a)
  | .readConfig1 a => wireFrame 0x91 (readFields a)
  | .readConfig2 a => wireFrame 0x92 (readFields a)
  | .readConfig3 a => wireFrame 0x93 (readFields a)
  | .queryFwVersion _ => ⟨0xFF, 0xA0, ⟨0, 0, 0, 0, 0, 0⟩, 0x60⟩
  | .raw code raw => wireFrame code (Payload.ofBits raw)
  | .writeConfigGeneric a => wireFrame (familyCode 0x20 a.arg0) (writeFields a)
  | .readConfigGeneric a => wireFrame (familyCode 0x24 a.arg0) (readFields a)
  | .rxAbcStatus p cs => ⟨0xFF, 0x7D, p, cs⟩
  | .rxFwVersion p cs => ⟨0xFF, 0xA0, p, cs⟩
  | .rxToggleAbc p cs => ⟨0xFF, 0x79, p, cs⟩
  | .rxSetInterval p cs => ⟨0xFF, 0x7E, p, cs⟩
  | .rxWriteConfig p cs => ⟨0xFF, 0x80, p, cs⟩
  | .rxWriteConfig1 p cs => ⟨0xFF, 0x81, p, cs⟩
  | .rxWriteConfig2 p cs => ⟨0xFF, 0x82, p, cs⟩
  | .rxWriteConfig3 p cs => ⟨0xFF, 0x83, p, cs⟩
  | .rxReset p cs => ⟨0xFF, 0x8D, p, cs⟩
  | .rxReadConfig p cs => ⟨0xFF, 0x90, p, cs⟩
  | .rxReadConfig1 p cs => ⟨0xFF, 0x91, p, cs⟩
  | .rxReadConfig2 p cs => ⟨0xFF, 0x92, p, cs⟩
  | .rxReadConfig3 p cs => ⟨0xFF, 0x93, p, cs⟩
  | .rxUnrecognised code p cs => ⟨0xFF, code, p, cs⟩

/-- A request without the override. -/
def plainRequest (code : Byte) (a : Args) : EncRequest := ⟨code, a, false, 0⟩

/-- The ports that name an encoder operation (10_state.md R26); none for a decoder case. -/
def encodeRequest (i : Instr) : Option EncRequest :=
  match i with
  | .toggleAbc a => some (plainRequest 0x79 a)
  | .queryAbc a => some (plainRequest 0x7D a)
  | .setInterval a => some (plainRequest 0x7E a)
  | .writeConfig a => some (plainRequest 0x80 a)
  | .writeConfig1 a => some (plainRequest 0x81 a)
  | .writeConfig2 a => some (plainRequest 0x82 a)
  | .writeConfig3 a => some (plainRequest 0x83 a)
  | .reset a => some (plainRequest 0x8D a)
  | .readConfig a => some (plainRequest 0x90 a)
  | .readConfig1 a => some (plainRequest 0x91 a)
  | .readConfig2 a => some (plainRequest 0x92 a)
  | .readConfig3 a => some (plainRequest 0x93 a)
  | .queryFwVersion a => some (plainRequest 0xA0 a)
  | .raw code raw => some ⟨code, ⟨0, 0, 0⟩, true, raw⟩
  | .writeConfigGeneric a => some (plainRequest 0x80 a)
  | .readConfigGeneric a => some (plainRequest 0x90 a)
  | .rxAbcStatus _ _ => none
  | .rxFwVersion _ _ => none
  | .rxToggleAbc _ _ => none
  | .rxSetInterval _ _ => none
  | .rxWriteConfig _ _ => none
  | .rxWriteConfig1 _ _ => none
  | .rxWriteConfig2 _ _ => none
  | .rxWriteConfig3 _ _ => none
  | .rxReset _ _ => none
  | .rxReadConfig _ _ => none
  | .rxReadConfig1 _ _ => none
  | .rxReadConfig2 _ _ => none
  | .rxReadConfig3 _ _ => none
  | .rxUnrecognised _ _ _ => none

/-- The concrete write command of a 10-bit offset (30_encoding.md R60): the block `off[9:8]` selects the row. -/
def concreteWrite (a : Args) : Instr :=
  let lo : Args := ⟨2, (a.arg0.extractLsb' 0 8).setWidth 16, a.arg1⟩
  if a.arg0.extractLsb' 8 2 = 0 then .writeConfig lo
  else if a.arg0.extractLsb' 8 2 = 1 then .writeConfig1 lo
  else if a.arg0.extractLsb' 8 2 = 2 then .writeConfig2 lo
  else .writeConfig3 lo

/-- The concrete read command of a 10-bit offset (30_encoding.md R60). -/
def concreteRead (a : Args) : Instr :=
  let lo : Args := ⟨1, (a.arg0.extractLsb' 0 8).setWidth 16, 0⟩
  if a.arg0.extractLsb' 8 2 = 0 then .readConfig lo
  else if a.arg0.extractLsb' 8 2 = 1 then .readConfig1 lo
  else if a.arg0.extractLsb' 8 2 = 2 then .readConfig2 lo
  else .readConfig3 lo

/-- The command `decodeTx` gives back for an accepted operation: pseudo-forms and offsets above 255 expanded to the
concrete sub-code, the bool as 0 or 1, ignored argument ports zero, a raw frame that fits a layout read as that
layout. It is where several requests build one frame (notes/assumptions/11.md, DESIGN CHOICE, safe). -/
def Instr.canonical (i : Instr) : Instr :=
  match i with
  | .toggleAbc a => .toggleAbc ⟨1, if a.arg0 = 0 then 0 else 1, 0⟩
  | .queryAbc _ => .queryAbc ⟨0, 0, 0⟩
  | .setInterval a => .setInterval ⟨1, a.arg0, 0⟩
  | .writeConfig a => concreteWrite a
  | .writeConfig1 a => .writeConfig1 a
  | .writeConfig2 a => .writeConfig2 a
  | .writeConfig3 a => .writeConfig3 a
  | .reset _ => .reset ⟨0, 0, 0⟩
  | .readConfig a => concreteRead a
  | .readConfig1 a => .readConfig1 ⟨1, a.arg0, 0⟩
  | .readConfig2 a => .readConfig2 ⟨1, a.arg0, 0⟩
  | .readConfig3 a => .readConfig3 ⟨1, a.arg0, 0⟩
  | .queryFwVersion _ => .queryFwVersion ⟨0, 0, 0⟩
  | .raw code v => (layoutCommand (wireFrame code (Payload.ofBits v))).getD (.raw code v)
  | .writeConfigGeneric a => concreteWrite a
  | .readConfigGeneric a => concreteRead a
  | .rxAbcStatus p cs => .rxAbcStatus p cs
  | .rxFwVersion p cs => .rxFwVersion p cs
  | .rxToggleAbc p cs => .rxToggleAbc p cs
  | .rxSetInterval p cs => .rxSetInterval p cs
  | .rxWriteConfig p cs => .rxWriteConfig p cs
  | .rxWriteConfig1 p cs => .rxWriteConfig1 p cs
  | .rxWriteConfig2 p cs => .rxWriteConfig2 p cs
  | .rxWriteConfig3 p cs => .rxWriteConfig3 p cs
  | .rxReset p cs => .rxReset p cs
  | .rxReadConfig p cs => .rxReadConfig p cs
  | .rxReadConfig1 p cs => .rxReadConfig1 p cs
  | .rxReadConfig2 p cs => .rxReadConfig2 p cs
  | .rxReadConfig3 p cs => .rxReadConfig3 p cs
  | .rxUnrecognised code p cs => .rxUnrecognised code p cs

/-! ### The opcode table's words -/

/-- The instruction of an opcode-table word, in the table's numbering: a frame is one 72-bit word, `F[0]` in bits
71:64 (00_scope.md R8). The rows of direction tx come first, since the bits do not hold the direction, then the
decoder's cases; a checksum byte that the table leaves open is computed and never supplied (40_command_codes.md
R74), so it is filled in (notes/assumptions/10.md, DESIGN CHOICE). -/
def decodeTableWord (nbits w : Nat) : Option Instr :=
  if nbits = 72 then
    let f := Frame.ofBits (BitVec.ofNat 72 w)
    if f.hdr = headerByte then
      some ((layoutCommand f).getD (windowInstr (wireFrame f.code f.payload)))
    else none
  else none

end Sys2Proof
end

