-- ==== Sys2Proof/Machine/Fetch.lean ====
section
/-! DEFINITION. What one step finds to do: the stimulus at the head of the inbox either brings an instruction to
run, or is finished without one. The resync FSM of 42_decoder.md R112 is here. -/

namespace Sys2Proof.Machine

/-- What a step finds: an instruction to run in a state, or a state with nothing left to do. -/
inductive Fetched where
  | run (i : Instr) (s : State)
  | done (s : State)
deriving DecidableEq, Repr

/-- `rx_byte(b)` up to the semantic decode (42_decoder.md R112): append, then FILL (fewer than nine bytes), SLIDE
(an invalid window loses its first byte, R115), or ACCEPT (the case of the valid window is to run, R117). -/
def receive (b : Byte) (s : State) : Fetched :=
  match decodeRx (s.append b).buf with
  | .ok i => .run i (s.append b)
  | .error .incomplete => .done (s.append b).quiet
  | .error _ => .done ((s.append b).drop 1).quiet

/-- One rising clock edge (10_state.md R24): reset wins over a byte (70_reset_and_hazards.md R161); without either
nothing changes and nothing is emitted. -/
def clockEdge (rst rxValid : Bool) (rxData : Byte) (s : State) : Fetched :=
  if rst then .done s.blockReset
  else if rxValid then receive rxData s
  else .done s.quiet

/-- One evaluation of the encoder (41_encoder.md R80): step 1, the code must be a CommandCode, else `EE_BAD_CODE`;
the rest is the named operation's. -/
def present (r : EncRequest) (s : State) : Fetched :=
  match decodeRequest r with
  | .ok i => .run i s
  | .error _ => .done (s.raiseInvalidArgument .badCode)

/-- The next stimulus, taken from the inbox; with none waiting, an idle edge (70_reset_and_hazards.md R169). -/
def fetch (s : State) : Fetched :=
  match s.inbox with
  | [] => .done s.quiet
  | .edge rst rxValid rxData :: rest => clockEdge rst rxValid rxData { s with inbox := rest }
  | .request r :: rest => present r { s with inbox := rest }

/-- An instruction placed where the next step finds it (notes/assumptions/2.md): an encoder operation as the next
request; a decoder case as eight bytes already in the buffer and the ninth on the next edge. -/
def State.placeInstr (i : Instr) (s : State) : State :=
  match encodeRequest i with
  | some r => { s with inbox := .request r :: s.inbox }
  | none => { s with buf := (encode i).toBytes.take 8, inbox := .edge false true (encode i).cs :: s.inbox }

/-- A table word placed where the next step finds it; a word that names no instruction is received as it is. -/
def State.placeWord (nbits w : Nat) (s : State) : State :=
  match decodeTableWord nbits w with
  | some i => s.placeInstr i
  | none =>
    let f := Frame.ofBits (BitVec.ofNat 72 w)
    { s with buf := f.toBytes.take 8, inbox := .edge false true f.cs :: s.inbox }

end Sys2Proof.Machine
end

