-- ==== Sys2Proof/Machine/Flags.lean ====
section
/-! DEFINITION. The outputs that act as flags (10_state.md R16) and the other output ports (R25, R26), and the
register view of the buffer (R13), all computed from State. A port the spec leaves unspecified is `none`
(93_implementation_defined.md U6; notes/assumptions/8.md). -/

namespace Sys2Proof.Machine

/-- The reason code of R17. -/
def ParseError.toCode (e : ParseError) : BitVec 2 :=
  match e with
  | .unrecognisedCode => 1
  | .versionNotAscii => 2

/-- The reason code of an optional parse error: 0 is `PE_NONE` (R17). -/
def parseErrorCode (e : Option ParseError) : BitVec 2 :=
  match e with
  | none => 0
  | some e => e.toCode

/-- The cause code of 60_exceptions.md R142. -/
def EncErr.toCode (e : EncErr) : BitVec 2 :=
  match e with
  | .badCode => 1
  | .argc => 2
  | .range => 3

/-- `{P[0], P[1], P[2], P[3]}`, first character in bits 31:24 (R25). -/
def Version.toBits (v : Version) : BitVec 32 := v.c0 ++ v.c1 ++ v.c2 ++ v.c3

/-- `ev_valid`. -/
def State.evValid (s : State) : Bool := s.ev.isSome

/-- `ev_code`. -/
def State.evCode (s : State) : Option Byte := s.ev.map Event.code

/-- `ev_raw`, `P[0]` in bits 47:40. -/
def State.evRaw (s : State) : Option (BitVec 48) := s.ev.map fun e => e.raw.toBits

/-- `ev_cs`. -/
def State.evCs (s : State) : Option Byte := s.ev.map Event.checksum

/-- `ev_abc_valid`. -/
def State.evAbcValid (s : State) : Option Bool := s.ev.map fun e => e.abc.isSome

/-- `ev_abc`. -/
def State.evAbc (s : State) : Option Bool := s.ev.bind Event.abc

/-- `ev_ver_valid`. -/
def State.evVerValid (s : State) : Option Bool := s.ev.map fun e => e.version.isSome

/-- `ev_ver`. -/
def State.evVer (s : State) : Option (BitVec 32) := (s.ev.bind Event.version).map Version.toBits

/-- `ev_err`. -/
def State.evErr (s : State) : Option (BitVec 2) := s.ev.map fun e => parseErrorCode e.parseError

/-- `enc_ok`, once a request has been presented. -/
def State.encOk (s : State) : Option Bool :=
  s.enc.map fun r => match r with
    | .frame _ => true
    | .refusal _ => false

/-- `enc_err`, once a request has been presented; 0 when `enc_ok = 1`. -/
def State.encErr (s : State) : Option (BitVec 2) :=
  s.enc.map fun r => match r with
    | .frame _ => 0
    | .refusal c => c.toCode

/-- `enc_frame`, when `enc_ok = 1`. -/
def State.encFrame (s : State) : Option (BitVec 72) :=
  s.enc.bind fun r => match r with
    | .frame f => some f.toBits
    | .refusal _ => none

/-- `CNT`, the fill count (R13, R15). -/
def State.cnt (s : State) : BitVec 4 := BitVec.ofNat 4 s.buf.length

/-- `WIN[i]`, defined for `i < CNT` only (R13). -/
def State.win (s : State) (i : Fin 9) : Option Byte := s.buf[i.val]?

end Sys2Proof.Machine
end

