-- ==== Sys2Proof/Machine/Reference.lean ====
section
/-! DEFINITION. The spec's three whole-algorithm forms, written from their own pseudocode, to which the machine is
compared: `encode` (41_encoder.md R80), `event_of` (42_decoder.md R124), `feed` (42_decoder.md R111). The step calls
none of them. -/

namespace Sys2Proof.Machine

/-- Step 5 of R80: the payload of a resolved code, its low offset byte, and the argument ports. -/
def payloadOf (c : Byte) (a0 : Byte) (a : Args) : Payload :=
  if c = 0x79 then layoutB a.arg0
  else if c = 0x7E then layoutI a.arg0
  else if writeFamily.contains c then layoutW a0 a.arg1
  else if readFamily.contains c then layoutR a0
  else layoutZ

/-- `encode(code, argc, arg0, arg1, raw_en, raw)` (R80). -/
def encodeSpec (r : EncRequest) : EncResult :=
  if !isCode r.code then .refusal .badCode
  else if r.rawEn then .frame (assemble r.code (layoutX r.raw))
  else if argcReq r.code ≠ some r.args.argc then .refusal .argc
  else if isGeneric r.code then
    match resolveFamily r.code r.args.arg0 with
    | none => .refusal .range
    | some (c, lo) => .frame (assemble c (payloadOf c lo r.args))
  else if (writeFamily.contains r.code || readFamily.contains r.code) && decide (255 < r.args.arg0.toNat) then
    .refusal .range
  else .frame (assemble r.code (payloadOf r.code (r.args.arg0.setWidth 8) r.args))

/-- `event_of(W)` with `ABC_IDX` as an argument (R124). -/
def eventOf (idx : Fin 6) (w : Frame) : Event :=
  if w.code = 0x7D then ⟨w.code, w.payload, w.cs, some (abcStatus idx w.payload), none, none⟩
  else if w.code = 0xA0 then
    if (w.payload.p0 ||| w.payload.p1 ||| w.payload.p2 ||| w.payload.p3).msb = false then
      ⟨w.code, w.payload, w.cs, none, some ⟨w.payload.p0, w.payload.p1, w.payload.p2, w.payload.p3⟩, none⟩
    else ⟨w.code, w.payload, w.cs, none, none, some .versionNotAscii⟩
  else if !isCode w.code then ⟨w.code, w.payload, w.cs, none, none, some .unrecognisedCode⟩
  else ⟨w.code, w.payload, w.cs, none, none, none⟩

/-- The loop of `feed`, at most `n` iterations (R111): the buffer it leaves and the Events it emits, in order. -/
def feedLoop (idx : Fin 6) (n : Nat) (buf : List Byte) : List Byte × List Event :=
  match n with
  | 0 => (buf, [])
  | n + 1 =>
    match Frame.ofBytes buf with
    | none => (buf, [])
    | some w =>
      if w.valid then
        ((feedLoop idx n (buf.drop 9)).1, eventOf idx w :: (feedLoop idx n (buf.drop 9)).2)
      else feedLoop idx n (buf.drop 1)

/-- `feed(chunk)` (R111). Every iteration that does not stop removes a byte, so as many iterations as bytes are
enough. -/
def feed (idx : Fin 6) (buf chunk : List Byte) : List Byte × List Event :=
  feedLoop idx (buf ++ chunk).length (buf ++ chunk)

/-- The edge that delivers one byte (10_state.md R24). -/
abbrev rxEdge (b : Byte) : Stimulus := .edge false true b

/-- The bytes that stimuli deliver to the decoder, reset edges left out (10_state.md R24). -/
def rxBytes (l : List Stimulus) : List Byte :=
  match l with
  | [] => []
  | .edge false true b :: rest => b :: rxBytes rest
  | _ :: rest => rxBytes rest

/-- No edge among the stimuli asserts `rst`. -/
def noReset (l : List Stimulus) : Bool :=
  l.all fun x => match x with
    | .edge rst _ _ => !rst
    | .request _ => true

end Sys2Proof.Machine
end

