-- ==== Sys2Proof/Safety.lean ====
section
/-! DEFINITION. What holds of every state of the block between steps, in the terms the claims use. -/

namespace Sys2Proof.Machine

/-- An Event the decoder may deliver: it is the Event of a valid window (42_decoder.md R113, R124). -/
abbrev Event.Wf (e : Event) : Prop :=
  (Frame.mk headerByte e.code e.raw e.checksum).valid = true ∧
    e = eventOf Config.abcIdx ⟨headerByte, e.code, e.raw, e.checksum⟩

/-- An answer the encoder may give: a frame is valid and its code is a member (41_encoder.md R94). -/
abbrev EncResult.Wf (r : EncResult) : Prop :=
  match r with
  | .frame f => f.valid = true ∧ isCode f.code = true
  | .refusal _ => True

/-- The rest invariant (10_state.md R11) with what the outputs hold: at most eight bytes wait; every Event
delivered is the Event of a valid window; an Event presented is the last one delivered and left the buffer empty
(42_decoder.md R112, R126); the encoder's answer is well formed. -/
structure State.Inv (s : State) : Prop where
  rest : s.buf.length ≤ 8
  events : ∀ e ∈ s.sink, e.Wf
  presented : ∀ e, s.ev = some e → s.sink.getLast? = some e ∧ s.buf = []
  answer : ∀ r, s.enc = some r → r.Wf

/-- The state a step answers, if it answers one. -/
def nextOf (r : Host.Outcome State Fault Refusal) : Option State :=
  match r with
  | .next s => some s
  | .fault _ => none
  | .refused _ => none

end Sys2Proof.Machine
end

