-- ==== Sys2Proof/Certificates/Slice0/Obligations.lean ====
section
/-! DEFINITION. The statements. Each says which rule of spec/ it formalises. -/

namespace Sys2Proof.Machine.Claims

/-- The state after an Event `e` for the window at the front of the buffer: nine bytes consumed, the Event presented
and delivered, everything else as before. -/
def delivered (e : Event) (s : State) : State :=
  { s with buf := s.buf.drop 9, ev := some e, sink := s.sink ++ [e] }

/-- The state after the encoder answered a frame. -/
def answered (f : Frame) (s : State) : State := { s with enc := some (.frame f) }

/-- The state after the encoder refused. -/
def refusedWith (c : EncErr) (s : State) : State := { s with enc := some (.refusal c) }

/-- A frame of a code and six payload bytes, with the checksum of those seven bytes. -/
def framed (code p0 p1 p2 p3 p4 p5 : Byte) : Frame :=
  ⟨0xFF, code, ⟨p0, p1, p2, p3, p4, p5⟩, checksum [code, p0, p1, p2, p3, p4, p5]⟩

/-- A command of format Z with its one frame and its refusal (R83, R90, R96). -/
def ConstantCommand (code cs : Byte) (mk : Args → Instr) : Prop :=
  ∀ a s,
    (a.argc = 0 → exec (mk a) s = .next (answered ⟨0xFF, code, ⟨0, 0, 0, 0, 0, 0⟩, cs⟩ s)) ∧
    (a.argc ≠ 0 → exec (mk a) s = .next (refusedWith .argc s))

/-- A generic write (R86): resolution by the offset, format W, the two refusals. -/
def GenericWrite (mk : Args → Instr) : Prop :=
  ∀ a s,
    (a.argc = 2 → a.arg0.toNat ≤ 1023 →
      exec (mk a) s = .next (answered
        (framed (BitVec.ofNat 8 (0x80 + a.arg0.toNat / 256)) (BitVec.ofNat 8 (a.arg0.toNat % 256))
          (a.arg1.extractLsb' 24 8) (a.arg1.extractLsb' 16 8) (a.arg1.extractLsb' 8 8) (a.arg1.extractLsb' 0 8) 0) s)) ∧
    (a.argc ≠ 2 → exec (mk a) s = .next (refusedWith .argc s)) ∧
    (a.argc = 2 → 1023 < a.arg0.toNat → exec (mk a) s = .next (refusedWith .range s))

/-- A generic read (R91): resolution by the offset, format R, the two refusals. -/
def GenericRead (mk : Args → Instr) : Prop :=
  ∀ a s,
    (a.argc = 1 → a.arg0.toNat ≤ 1023 →
      exec (mk a) s = .next (answered
        (framed (BitVec.ofNat 8 (0x90 + a.arg0.toNat / 256)) (BitVec.ofNat 8 (a.arg0.toNat % 256)) 0 0 0 0 0) s)) ∧
    (a.argc ≠ 1 → exec (mk a) s = .next (refusedWith .argc s)) ∧
    (a.argc = 1 → 1023 < a.arg0.toNat → exec (mk a) s = .next (refusedWith .range s))

/-- A write sub-code given directly (R87 to R89); it equals the generic command at `base + lo`. -/
def DirectWrite (code : Byte) (base : BitVec 16) (mk : Args → Instr) : Prop :=
  ∀ a s,
    (a.argc = 2 → a.arg0.toNat ≤ 255 →
      exec (mk a) s = .next (answered
        (framed code (BitVec.ofNat 8 a.arg0.toNat) (a.arg1.extractLsb' 24 8) (a.arg1.extractLsb' 16 8)
          (a.arg1.extractLsb' 8 8) (a.arg1.extractLsb' 0 8) 0) s) ∧
      exec (mk a) s = exec (.writeConfig { a with arg0 := base + a.arg0 }) s) ∧
    (a.argc ≠ 2 → exec (mk a) s = .next (refusedWith .argc s)) ∧
    (a.argc = 2 → 255 < a.arg0.toNat → exec (mk a) s = .next (refusedWith .range s))

/-- A read sub-code given directly (R92, R93, R95); it equals the generic command at `base + lo`. -/
def DirectRead (code : Byte) (base : BitVec 16) (mk : Args → Instr) : Prop :=
  ∀ a s,
    (a.argc = 1 → a.arg0.toNat ≤ 255 →
      exec (mk a) s = .next (answered (framed code (BitVec.ofNat 8 a.arg0.toNat) 0 0 0 0 0) s) ∧
      exec (mk a) s = exec (.readConfig { a with arg0 := base + a.arg0 }) s) ∧
    (a.argc ≠ 1 → exec (mk a) s = .next (refusedWith .argc s)) ∧
    (a.argc = 1 → 255 < a.arg0.toNat → exec (mk a) s = .next (refusedWith .range s))

/-- A recognised code without a layout (R123), with the flags it writes. -/
def OpaqueCase (code : Byte) (mk : Payload → Byte → Instr) : Prop :=
  ∀ p cs s, ∃ t,
    exec (mk p cs) s = .next t ∧ t = delivered ⟨code, p, cs, none, none, none⟩ s ∧
    t.evValid = true ∧ t.evAbcValid = some false ∧ t.evVerValid = some false ∧ t.evErr = some 0

/-- The instruction is the row its own request names: a config-area row of code 0x80 or 0x90 for offsets up to 255,
its pseudo-form above (notes/assumptions/9.md). -/
def RowOfRequest (i : Instr) : Prop :=
  match i with
  | .writeConfig a => a.arg0.toNat ≤ 255
  | .readConfig a => a.arg0.toNat ≤ 255
  | .writeConfigGeneric a => 255 < a.arg0.toNat
  | .readConfigGeneric a => 255 < a.arg0.toNat
  | _ => True

/-- The values R22 gives after reset; what it calls unspecified is absent (93_implementation_defined.md U6). -/
def AfterReset (t : State) : Prop :=
  t.buf = [] ∧ t.cnt = 0 ∧ (∀ i, t.win i = none) ∧ t.evValid = false ∧ t.evCode = none ∧ t.evRaw = none ∧
    t.evCs = none ∧ t.evAbcValid = none ∧ t.evAbc = none ∧ t.evVerValid = none ∧ t.evVer = none ∧ t.evErr = none

/-- The offset of a write command, in the block `block` of 256, and its value come back from its frame (R37). -/
def WriteReassembles (block : Nat) (mk : Args → Instr) : Prop :=
  ∀ a s t f, exec (mk a) s = .next t → t.enc = some (.frame f) →
    f.code ∈ writeFamily ∧ (f.code.toNat - 0x80) * 256 + f.payload.p0.toNat = block * 256 + a.arg0.toNat ∧
      f.payload.p1 ++ f.payload.p2 ++ f.payload.p3 ++ f.payload.p4 = a.arg1

/-- The offset of a read command, in the block `block` of 256, comes back from its frame (R37). -/
def ReadReassembles (block : Nat) (mk : Args → Instr) : Prop :=
  ∀ a s t f, exec (mk a) s = .next t → t.enc = some (.frame f) →
    f.code ∈ readFamily ∧ (f.code.toNat - 0x90) * 256 + f.payload.p0.toNat = block * 256 + a.arg0.toNat

/-- A frame with code 0xA0 and a byte of at least 0x80 among `P[0]` to `P[3]` (R98, R120). -/
abbrev NotAsciiVersion (f : Frame) : Prop := f.code = 0xA0 ∧ ∃ b ∈ f.payload.toBytes.take 4, 128 ≤ b.toNat

/-- The bytes of a window satisfy the two conditions of R113. -/
def ValidWindow (w : Frame) : Prop := w.hdr = 0xFF ∧ checksum w.body = w.cs

end Sys2Proof.Machine.Claims

open Sys2Proof Sys2Proof.Machine Sys2Proof.Machine.Claims

/-! ### Encoder operations -/

/-- R82: TOGGLE_ABC answers one of its two frames, or EE_ARGC; nothing else changes. -/
def Obligations.ToggleAbcAnswers : Prop :=
  ∀ a s,
    (a.argc = 1 → a.arg0 ≠ 0 →
      exec (.toggleAbc a) s = .next (answered ⟨0xFF, 0x79, ⟨0xA0, 0, 0, 0, 0, 0⟩, 0xE7⟩ s)) ∧
    (a.argc = 1 → a.arg0 = 0 →
      exec (.toggleAbc a) s = .next (answered ⟨0xFF, 0x79, ⟨0, 0, 0, 0, 0, 0⟩, 0x87⟩ s)) ∧
    (a.argc ≠ 1 → exec (.toggleAbc a) s = .next (refusedWith .argc s))

/-- R83, R90, R96: each of the three commands without arguments has one frame, or EE_ARGC. RESET leaves the buffer
as it is (R90). -/
def Obligations.ConstantCommandsAnswer : Prop :=
  ConstantCommand 0x7D 0x83 .queryAbc ∧ ConstantCommand 0x8D 0x73 .reset ∧ ConstantCommand 0xA0 0x60 .queryFwVersion

/-- R84: SET_INTERVAL answers its frame for every interval, big-endian after the constant 2, or EE_ARGC. -/
def Obligations.SetIntervalAnswers : Prop :=
  ∀ a s,
    (a.argc = 1 → exec (.setInterval a) s = .next (answered
      (framed 0x7E 0x02 (BitVec.ofNat 8 (a.arg0.toNat / 256)) (BitVec.ofNat 8 (a.arg0.toNat % 256)) 0 0 0) s)) ∧
    (a.argc ≠ 1 → exec (.setInterval a) s = .next (refusedWith .argc s))

/-- R86, R91, R60: the two generic commands and their pseudo-forms resolve the code by the offset. -/
def Obligations.GenericConfigCommandsAnswer : Prop :=
  GenericWrite .writeConfig ∧ GenericWrite .writeConfigGeneric ∧ GenericRead .readConfig ∧
    GenericRead .readConfigGeneric

/-- R87, R88, R89: the write sub-codes given directly. -/
def Obligations.DirectWritesAnswer : Prop :=
  DirectWrite 0x81 0x100 .writeConfig1 ∧ DirectWrite 0x82 0x200 .writeConfig2 ∧ DirectWrite 0x83 0x300 .writeConfig3

/-- R92, R93, R95: the read sub-codes given directly. -/
def Obligations.DirectReadsAnswer : Prop :=
  DirectRead 0x91 0x100 .readConfig1 ∧ DirectRead 0x92 0x200 .readConfig2 ∧ DirectRead 0x93 0x300 .readConfig3

/-- R81: RAW sends the six bytes verbatim under a member code, with the computed checksum, and refuses any other
code with EE_BAD_CODE; never EE_ARGC or EE_RANGE. -/
def Obligations.RawOverrideAnswers : Prop :=
  ∀ code raw s,
    (isCode code = true → exec (.raw code raw) s = .next (answered
      (framed code (raw.extractLsb' 40 8) (raw.extractLsb' 32 8) (raw.extractLsb' 24 8) (raw.extractLsb' 16 8)
        (raw.extractLsb' 8 8) (raw.extractLsb' 0 8)) s)) ∧
    (isCode code = false → exec (.raw code raw) s = .next (refusedWith .badCode s))

/-! ### Decoder cases -/

/-- R119: the ABC status, for every value of `ABC_IDX`, with the flags it writes. -/
def Obligations.AbcStatusDelivers : Prop :=
  ∀ p cs s, ∃ t abc,
    (abc = true ↔ p.toBytes[Config.abcIdx.val]? ≠ some 0) ∧
    exec (.rxAbcStatus p cs) s = .next t ∧ t = delivered ⟨0x7D, p, cs, some abc, none, none⟩ s ∧
    t.evValid = true ∧ t.evAbcValid = some true ∧ t.evAbc = some abc ∧ t.evVerValid = some false ∧ t.evErr = some 0

/-- R120: the firmware version when its four characters are at most 0x7F, else the parse error; the padding bytes
do not matter. -/
def Obligations.FwVersionDelivers : Prop :=
  ∀ p cs s,
    (p.p0.toNat ≤ 0x7F ∧ p.p1.toNat ≤ 0x7F ∧ p.p2.toNat ≤ 0x7F ∧ p.p3.toNat ≤ 0x7F →
      ∃ t, exec (.rxFwVersion p cs) s = .next t ∧
        t = delivered ⟨0xA0, p, cs, none, some ⟨p.p0, p.p1, p.p2, p.p3⟩, none⟩ s ∧
        t.evValid = true ∧ t.evVerValid = some true ∧ t.evVer = some (p.p0 ++ p.p1 ++ p.p2 ++ p.p3) ∧
        t.evAbcValid = some false ∧ t.evErr = some 0) ∧
    (¬ (p.p0.toNat ≤ 0x7F ∧ p.p1.toNat ≤ 0x7F ∧ p.p2.toNat ≤ 0x7F ∧ p.p3.toNat ≤ 0x7F) →
      ∃ t, exec (.rxFwVersion p cs) s = .next t ∧
        t = delivered ⟨0xA0, p, cs, none, none, some .versionNotAscii⟩ s ∧
        t.evValid = true ∧ t.evVerValid = some false ∧ t.evAbcValid = some false ∧ t.evErr = some 2 ∧
        t.evCode = some 0xA0 ∧ t.evRaw = some p.toBits ∧ t.evCs = some cs)

/-- R123: the eleven recognised codes without a layout: the raw Event, no typed field, no parse error. -/
def Obligations.OpaqueCasesDeliver : Prop :=
  OpaqueCase 0x79 .rxToggleAbc ∧ OpaqueCase 0x7E .rxSetInterval ∧ OpaqueCase 0x80 .rxWriteConfig ∧
  OpaqueCase 0x81 .rxWriteConfig1 ∧ OpaqueCase 0x82 .rxWriteConfig2 ∧ OpaqueCase 0x83 .rxWriteConfig3 ∧
  OpaqueCase 0x8D .rxReset ∧ OpaqueCase 0x90 .rxReadConfig ∧ OpaqueCase 0x91 .rxReadConfig1 ∧
  OpaqueCase 0x92 .rxReadConfig2 ∧ OpaqueCase 0x93 .rxReadConfig3

/-- R122: an unrecognised code still delivers its Event, with PE_UNRECOGNISED_CODE; its nine bytes are gone. -/
def Obligations.UnrecognisedDelivers : Prop :=
  ∀ code p cs s, isCode code = false → ∃ t,
    exec (.rxUnrecognised code p cs) s = .next t ∧
    t = delivered ⟨code, p, cs, none, none, some .unrecognisedCode⟩ s ∧
    t.evValid = true ∧ t.evCode = some code ∧ t.evRaw = some p.toBits ∧ t.evCs = some cs ∧
    t.evAbcValid = some false ∧ t.evVerValid = some false ∧ t.evErr = some 1

/-- R124, R117, R121: every decoder case consumes its window and delivers exactly `event_of` of it, whether or not
the semantic decode succeeded. -/
def Obligations.DecoderCasesAreEventOf : Prop :=
  ∀ i s, i.direction = .rx → i.wf = true →
    exec i s = .next (delivered (eventOf Config.abcIdx (encode i)) s)

/-- R17, R145: the Event of a valid window holds its code, payload and checksum as received, and at most one of `abc`,
`version`, `parse_error`, each exactly when its rule says. -/
def Obligations.EventFieldsFollowTheCode : Prop :=
  ∀ s b rest w, s.inbox = rxEdge b :: rest → w.toBytes = s.buf ++ [b] → ValidWindow w →
    ∃ t e, step s = .next t ∧ t.ev = some e ∧ t.sink = s.sink ++ [e] ∧
      e.code = w.code ∧ e.raw = w.payload ∧ e.checksum = w.cs ∧ e.checksum = checksum (e.code :: e.raw.toBytes) ∧
      (e.abc.isSome = true ↔ e.code = 0x7D) ∧
      (e.version.isSome = true ↔ e.code = 0xA0 ∧
        e.raw.p0.toNat < 128 ∧ e.raw.p1.toNat < 128 ∧ e.raw.p2.toNat < 128 ∧ e.raw.p3.toNat < 128) ∧
      (∀ v, e.version = some v → v = ⟨e.raw.p0, e.raw.p1, e.raw.p2, e.raw.p3⟩) ∧
      (e.parseError = some .unrecognisedCode ↔ isCode e.code = false) ∧
      (e.parseError = some .versionNotAscii ↔ e.code = 0xA0 ∧
        (128 ≤ e.raw.p0.toNat ∨ 128 ≤ e.raw.p1.toNat ∨ 128 ≤ e.raw.p2.toNat ∨ 128 ≤ e.raw.p3.toNat)) ∧
      e.abc.toList.length + e.version.toList.length + e.parseError.toList.length ≤ 1 ∧ t.evErr ≠ some 3

/-! ### What every operation leaves alone, and that each completes -/

/-- R19: an encoder operation, answered or refused, changes the encoder's outputs only; a decoder case changes no
encoder output, removes exactly nine bytes from the front and delivers exactly one Event; the same of whole steps. -/
def Obligations.EncoderAndDecoderShareNoState : Prop :=
  (∀ i s t, i.direction = .tx → exec i s = .next t →
    t.buf = s.buf ∧ t.ev = s.ev ∧ t.sink = s.sink ∧ t.inbox = s.inbox) ∧
  (∀ i s t, i.direction = .rx → exec i s = .next t →
    t.enc = s.enc ∧ t.inbox = s.inbox ∧ t.buf = s.buf.drop 9 ∧ ∃ e, t.ev = some e ∧ t.sink = s.sink ++ [e]) ∧
  (∀ s t r rest, s.inbox = .request r :: rest → step s = .next t →
    t.buf = s.buf ∧ t.ev = s.ev ∧ t.sink = s.sink ∧ t.inbox = rest) ∧
  (∀ s t x v b rest, s.inbox = .edge x v b :: rest → step s = .next t → t.enc = s.enc ∧ t.inbox = rest)

/-- 60_exceptions.md sections 1 to 3: every operation of the table, on any operands and in any state, has a next
state: no instruction faults or refuses. -/
def Obligations.EveryInstructionCompletes : Prop := ∀ i s, ∃ t, exec i s = .next t

/-- R110, R144: no input, in no state, stops the machine. -/
def Obligations.NoStepStops : Prop := ∀ s, ∃ t, step s = .next t

/-! ### The step -/

/-- A step runs the decoded instruction. A request that names an operation runs it with the request taken; a received
byte that completes a window with a case runs it with the byte appended; a request that names none is refused with
EE_BAD_CODE (R80 step 1). -/
def Obligations.StepRunsDecodedInstruction : Prop :=
  ∀ s rest,
    (∀ r i, s.inbox = .request r :: rest → decodeRequest r = .ok i → step s = exec i { s with inbox := rest }) ∧
    (∀ r e, s.inbox = .request r :: rest → decodeRequest r = .error e →
      step s = .next (refusedWith .badCode { s with inbox := rest })) ∧
    (∀ b i, s.inbox = rxEdge b :: rest → decodeRx (s.buf ++ [b]) = .ok i →
      step s = exec i { s with inbox := rest, buf := s.buf ++ [b] })

/-- An instruction placed by `withFetchWord`'s operation is the one the next step runs: an encoder operation that is
the row of its request, or a decoder case with a valid window (notes/assumptions/2.md, DESIGN CHOICE). -/
def Obligations.PlacedInstructionRuns : Prop :=
  ∀ i s,
    (i.direction = .tx → RowOfRequest i → step (s.placeInstr i) = exec i s) ∧
    (i.direction = .rx → i.wf = true → step (s.placeInstr i) = exec i { s with buf := (encode i).toBytes })

/-- R112, R114, R115, R116: the byte step of the decoder: FILL below eight bytes; at eight, ACCEPT a valid window,
consuming it and delivering its Event, or SLIDE by one byte; in every case it is `feed` of that byte. -/
def Obligations.ByteStepFillsAcceptsOrSlides : Prop :=
  ∀ s b rest, s.inbox = rxEdge b :: rest →
    (s.buf.length < 8 → step s = .next { s with buf := s.buf ++ [b], ev := none, inbox := rest }) ∧
    (∀ w, w.toBytes = s.buf ++ [b] → ValidWindow w →
      step s = .next ⟨[], some (eventOf Config.abcIdx w), s.enc, s.sink ++ [eventOf Config.abcIdx w], rest⟩) ∧
    (∀ w, w.toBytes = s.buf ++ [b] → ¬ ValidWindow w →
      step s = .next { s with buf := s.buf.drop 1 ++ [b], ev := none, inbox := rest }) ∧
    (s.buf.length ≤ 8 → ∃ t, step s = .next t ∧ t.buf = (feed Config.abcIdx s.buf [b]).1 ∧
      t.sink = s.sink ++ (feed Config.abcIdx s.buf [b]).2)

/-- R113: a 9-byte window is accepted exactly when its header is 0xFF and its checksum byte is right, and exactly
2^56 windows are. -/
def Obligations.ValidityIsHeaderAndChecksum : Prop :=
  (∀ w : Frame, (∃ i, decodeRx w.toBytes = .ok i) ↔ ValidWindow w) ∧ Nat.card {w : Frame // ValidWindow w} = 2 ^ 56

/-- R161: reset wins over a byte on the same edge: the byte is not appended, nothing is tested or emitted. -/
def Obligations.ResetWinsOverByte : Prop :=
  ∀ s rxValid b rest, s.inbox = .edge true rxValid b :: rest →
    step s = .next { s with buf := [], ev := none, inbox := rest }

/-- R160: reset held for any number of edges, whatever `rx_valid` and `rx_data` are on each, has the effect of one: the
buffer is empty, no Event is emitted, nothing else changes; and the eight bytes after it only fill the buffer. -/
def Obligations.ResetHeldIsResetOnce : Prop :=
  ∀ s, ∀ held : List (Bool × Byte), ∀ l : List Byte, held ≠ [] → l.length ≤ 8 →
    s.inbox = (held.map fun x => .edge true x.1 x.2) ++ l.map rxEdge →
    Host.Core.run Sys2Proof.core (held.length + l.length) s = .next { s with buf := l, ev := none, inbox := [] }

/-- 10_state.md section 4: an edge with neither reset nor a byte changes nothing and emits nothing. An empty inbox
counts as such an edge (notes/assumptions/1.md, DESIGN CHOICE). -/
def Obligations.IdleEdgeChangesNothing : Prop :=
  ∀ s,
    (∀ b rest, s.inbox = .edge false false b :: rest → step s = .next { s with ev := none, inbox := rest }) ∧
    (s.inbox = [] → step s = .next { s with ev := none })

/-- R33, R162: the only accesses to the buffer. A step leaves it, appends one byte, appends one and drops one with no
Event, appends one and drops nine with an Event, or empties it by the block's reset; without an Event only reset
removes more than one byte. -/
def Obligations.BufferAccessesAreThree : Prop :=
  ∀ s t, step s = .next t →
    (t.sink = s.sink ∧
      (t.buf = s.buf ∨ (∃ b, t.buf = s.buf ++ [b]) ∨ (∃ b, t.buf = (s.buf ++ [b]).drop 1) ∨
        (t.buf = [] ∧ ∃ v b rest, s.inbox = .edge true v b :: rest))) ∨
    ((∃ e, t.sink = s.sink ++ [e]) ∧ ∃ b, t.buf = (s.buf ++ [b]).drop 9)

/-- R11, with what the outputs hold (R94, R124, R126): every step keeps the invariant. -/
def Obligations.StepKeepsInvariant : Prop := ∀ s t, s.Inv → step s = .next t → t.Inv

/-- The state after reset meets the invariant. -/
def Obligations.ResetMeetsInvariant : Prop := State.reset.Inv

/-- The values after reset, from R22, which calls the other `ev_*` ports and `WIN` unspecified. That they are absent is
the model's way of writing unspecified (93_implementation_defined.md U6; notes/assumptions/8.md, DEDUCED). The state
after reset, and the state after every reset edge whatever the state before it: the buffer is empty, the count 0, no
Event is presented and the unspecified outputs are absent; the encoder's outputs stay. -/
def Obligations.ResetValues : Prop :=
  AfterReset State.reset ∧
  ∀ s v b rest, s.inbox = .edge true v b :: rest → ∃ t, step s = .next t ∧ AfterReset t ∧ t.enc = s.enc ∧ t.sink = s.sink

/-- R13, R15: the register view: `CNT` counts the bytes of the buffer and never exceeds 8 between steps, `WIN[i]` is
`buf[i]` for `i < CNT` and holds no value above, and together they are the buffer. -/
def Obligations.RegistersHoldTheBuffer : Prop :=
  ∀ s, s.buf.length ≤ 8 →
    s.cnt.toNat = s.buf.length ∧ (∀ i, s.win i = none ↔ s.cnt.toNat ≤ i.val) ∧
    s.buf = (List.finRange 9).filterMap s.win ∧ ∀ t, step s = .next t → t.cnt.toNat = t.buf.length ∧ t.cnt.toNat ≤ 8

/-- R126: a step delivers at most one Event, and after one the next eight bytes deliver none; a `feed` delivers at most
one for every nine bytes. -/
def Obligations.EventsAreNineStepsApart : Prop :=
  (∀ s t, step s = .next t →
    (t.sink = s.sink ∨ ∃ e, t.sink = s.sink ++ [e]) ∧
    (s.buf.length ≤ 8 → t.sink ≠ s.sink → t.buf = [] ∧ ∀ l : List Byte, l.length ≤ 8 →
      ∃ u, Host.Core.run Sys2Proof.core l.length { t with inbox := l.map rxEdge } = .next u ∧
        u.sink = t.sink ∧ u.buf = l)) ∧
  ∀ idx buf chunk, (feed idx buf chunk).2.length ≤ (buf.length + chunk.length) / 9

/-! ### The encoder as a whole -/

/-- R80: for every request, the step answers what the spec's whole algorithm answers, and changes nothing else. -/
def Obligations.EncoderIsTheSpecAlgorithm : Prop :=
  ∀ s r rest, s.inbox = .request r :: rest → step s = .next { s with enc := some (encodeSpec r), inbox := rest }

/-- R142, R147 (a): the cause reported for a request is the first that holds, in the order code, count, range; with
none, a frame is answered. -/
def Obligations.RefusalCauses : Prop :=
  ∀ s t r rest, s.inbox = .request r :: rest → step s = .next t →
    (t.encErr = some 1 ↔ isCode r.code = false) ∧
    (t.encErr = some 2 ↔ isCode r.code = true ∧ r.rawEn = false ∧ argcReq r.code ≠ some r.args.argc) ∧
    (t.encErr = some 3 ↔ r.rawEn = false ∧ argcReq r.code = some r.args.argc ∧
      (r.code ∈ [0x80, 0x90] ∧ 1023 < r.args.arg0.toNat ∨
        r.code ∈ [0x81, 0x82, 0x83, 0x91, 0x92, 0x93] ∧ 255 < r.args.arg0.toNat)) ∧
    (t.encErr = some 0 ↔ t.encOk = some true) ∧ (t.encOk = some true ↔ t.encFrame.isSome = true)

/-- R94, R97: every frame the encoder answers has nine bytes, the header, a member code and its checksum, and the
decoder accepts it. -/
def Obligations.AnsweredFramesAreValid : Prop :=
  ∀ s t r rest f, s.inbox = .request r :: rest → step s = .next t → t.enc = some (.frame f) →
    f.toBytes.length = 9 ∧ f.hdr = 0xFF ∧ isCode f.code = true ∧ f.cs = checksum f.body ∧
    ∃ i, decodeRx f.toBytes = .ok i

/-- R52, R53, R54: an accepted operation answers exactly the frame of the encoding tables; one that is not accepted
is refused. -/
def Obligations.AcceptedOperationsAnswerTheirEncoding : Prop :=
  ∀ i s, i.direction = .tx →
    (i.wf = true → exec i s = .next (answered (encode i) s)) ∧
    (i.wf = false → ∃ c, exec i s = .next (refusedWith c s))

/-- R99: the answer is a function of the request alone; asking twice is asking once; an evaluation and a clock edge
commute. -/
def Obligations.EncoderIsPure : Prop :=
  (∀ s s' t t' r rest rest', s.inbox = .request r :: rest → s'.inbox = .request r :: rest' →
    step s = .next t → step s' = .next t' → t.enc = t'.enc) ∧
  (∀ (s : State) r rest, Host.Core.run Sys2Proof.core 2 { s with inbox := .request r :: .request r :: rest } =
    Host.Core.run Sys2Proof.core 1 { s with inbox := .request r :: rest }) ∧
  ∀ (s : State) r rst v b rest,
    Host.Core.run Sys2Proof.core 2 { s with inbox := .request r :: .edge rst v b :: rest } =
      Host.Core.run Sys2Proof.core 2 { s with inbox := .edge rst v b :: .request r :: rest }

/-- R73: `resolve_family` on its precondition, its result a member, its inverse, and no value outside. -/
def Obligations.ResolveFamilyIsBijective : Prop :=
  ∀ g, isGeneric g = true →
    (∀ off : BitVec 16, off.toNat ≤ 1023 → ∃ c lo, resolveFamily g off = some (c, lo) ∧
      c.toNat = g.toNat + off.toNat / 256 ∧ lo.toNat = off.toNat % 256 ∧ isCode c = true ∧
      (c.toNat % 4) * 256 + lo.toNat = off.toNat ∧ c &&& 0xFC = g) ∧
    (∀ off : BitVec 16, 1023 < off.toNat → resolveFamily g off = none) ∧
    (∀ c lo : Byte, g.toNat ≤ c.toNat → c.toNat ≤ g.toNat + 3 →
      ∃ off : BitVec 16, off.toNat ≤ 1023 ∧ resolveFamily g off = some (c, lo) ∧
        ∀ off' : BitVec 16, resolveFamily g off' = some (c, lo) → off' = off)

/-- R37: a receiver reassembles offset and value from the frame of every config-area command: the two generic codes,
their pseudo-forms, and the six sub-codes given directly. -/
def Obligations.ReceiverReassemblesOffset : Prop :=
  WriteReassembles 0 .writeConfig ∧ WriteReassembles 0 .writeConfigGeneric ∧ WriteReassembles 1 .writeConfig1 ∧
  WriteReassembles 2 .writeConfig2 ∧ WriteReassembles 3 .writeConfig3 ∧ ReadReassembles 0 .readConfig ∧
  ReadReassembles 0 .readConfigGeneric ∧ ReadReassembles 1 .readConfig1 ∧ ReadReassembles 2 .readConfig2 ∧
  ReadReassembles 3 .readConfig3

/-! ### The checksum -/

/-- R75, laws (a) to (f): the negated sum; a frame's eight bytes sum to zero; order does not matter; one changed byte
makes a frame invalid; two changes that cancel leave it valid; an 8-bit and an 11-bit accumulator give the same. -/
def Obligations.ChecksumLaws : Prop :=
  (∀ b, (checksum b).toNat = (256 - byteSum b % 256) % 256) ∧
  (∀ b, (byteSum b + (checksum b).toNat) % 256 = 0) ∧
  (∀ b b', byteSum b % 256 = byteSum b' % 256 → checksum b = checksum b') ∧
  (∀ b b', b.Perm b' → checksum b = checksum b') ∧
  (∀ w w' : Frame, ∀ i v, w.valid = true → w'.hdr = 0xFF → i < 8 → (w.toBytes.drop 1)[i]? ≠ some v →
    w'.toBytes.drop 1 = (w.toBytes.drop 1).set i v → w'.valid = false) ∧
  (∀ w w' : Frame, ∀ i j x y d, w.valid = true → w'.hdr = 0xFF → i ≠ j → (w.toBytes.drop 1)[i]? = some x →
    (w.toBytes.drop 1)[j]? = some y → w'.toBytes.drop 1 = ((w.toBytes.drop 1).set i (x + d)).set j (y - d) →
    w'.valid = true) ∧
  (∀ b, checksum b = - b.foldl (· + ·) 0) ∧
  ∀ b, checksum b = (- b.foldl (fun acc x => acc + x.setWidth 11) (0 : BitVec 11)).setWidth 8

/-- R51: a frame is valid exactly when its header is 0xFF and its checksum field is the checksum of bytes 1 to 7, and
exactly when its header is 0xFF and its bytes 1 to 8 sum to zero mod 256. -/
def Obligations.ValidIffTailSumsToZero : Prop :=
  ∀ w : Frame, (w.valid = true ↔ w.hdr = 0xFF ∧ w.cs = checksum w.body) ∧
    (w.valid = true ↔ w.hdr = 0xFF ∧ byteSum (w.toBytes.drop 1) % 256 = 0)

/-- R55: a code byte outside the 13 (243 of them) is refused by the encoder, with the override or without, and carried
by the decoder on an Event with PE_UNRECOGNISED_CODE and no typed field. -/
def Obligations.CodesOutsideTheSet : Prop :=
  (Finset.univ.filter fun n : Fin 256 => isCode (BitVec.ofNat 8 n.val) = false).card = 243 ∧
  (∀ s r rest, isCode r.code = false → s.inbox = .request r :: rest →
    step s = .next { refusedWith .badCode s with inbox := rest }) ∧
  (∀ s b rest w, isCode w.code = false → s.inbox = rxEdge b :: rest → w.toBytes = s.buf ++ [b] → ValidWindow w →
    step s = .next { delivered ⟨w.code, w.payload, w.cs, none, none, some .unrecognisedCode⟩ s with inbox := rest })

/-- R57: without the override the unused payload bytes of an answered frame are zero; the decoder does not look at the
bytes its two layouts do not use. -/
def Obligations.UnusedPayloadBytes : Prop :=
  (∀ s t r rest f, s.inbox = .request r :: rest → r.rawEn = false → step s = .next t → t.enc = some (.frame f) →
    f.payload.p5 = 0 ∧
    (f.code ∈ [0x7D, 0x8D, 0xA0] → f.payload = ⟨0, 0, 0, 0, 0, 0⟩) ∧
    (f.code = 0x7E → f.payload.p3 = 0 ∧ f.payload.p4 = 0) ∧
    (f.code ∈ [0x79, 0x90, 0x91, 0x92, 0x93] → f.payload = ⟨f.payload.p0, 0, 0, 0, 0, 0⟩)) ∧
  (∀ w w' : Frame, w.code = 0x7D → w'.code = 0x7D → w.payload.get Config.abcIdx = w'.payload.get Config.abcIdx →
    (eventOf Config.abcIdx w).abc = (eventOf Config.abcIdx w').abc) ∧
  (∀ (w : Frame) p4 p5, w.code = 0xA0 →
    (eventOf Config.abcIdx { w with payload := { w.payload with p4 := p4, p5 := p5 } }).version =
      (eventOf Config.abcIdx w).version ∧
    (eventOf Config.abcIdx { w with payload := { w.payload with p4 := p4, p5 := p5 } }).parseError =
      (eventOf Config.abcIdx w).parseError)

/-! ### The decoder as a whole -/

/-- R127: `feed` does not depend on how the stream is cut into chunks, and a chunk fed at once is its bytes received one
by one. -/
def Obligations.FragmentationInvariance : Prop :=
  (∀ idx buf s t, buf.length ≤ 8 →
    feed idx buf (s ++ t) =
      ((feed idx (feed idx buf s).1 t).1, (feed idx buf s).2 ++ (feed idx (feed idx buf s).1 t).2)) ∧
  ∀ s c, s.buf.length ≤ 8 → s.inbox = c.map rxEdge →
    ∃ t, Host.Core.run Sys2Proof.core c.length s = .next t ∧ t.buf = (feed Config.abcIdx s.buf c).1 ∧
      t.sink = s.sink ++ (feed Config.abcIdx s.buf c).2

/-- R111: `feed` stops with at most eight bytes left, and more iterations change nothing. -/
def Obligations.FeedTerminates : Prop :=
  ∀ idx buf chunk,
    (feed idx buf chunk).1.length ≤ 8 ∧
    ∀ n, (buf ++ chunk).length ≤ n → feedLoop idx n (buf ++ chunk) = feed idx buf chunk

/-- R38 (d), R111, R112: whatever is presented, in whatever order and with whatever idle edges and encoder requests
in between, as long as reset is not, the machine leaves the buffer and has delivered the Events of one `feed` of
the bytes received. -/
def Obligations.MachineRunIsFeed : Prop :=
  ∀ s, s.buf.length ≤ 8 → noReset s.inbox = true →
    ∃ t, Host.Core.run Sys2Proof.core s.inbox.length s = .next t ∧ t.inbox = [] ∧
      t.buf = (feed Config.abcIdx s.buf (rxBytes s.inbox)).1 ∧
      t.sink = s.sink ++ (feed Config.abcIdx s.buf (rxBytes s.inbox)).2

/-- R128: garbage in which no valid window starts, then a valid window: exactly that window's Event, and an empty
buffer. With nothing after it this is the recovery of a frame; with more after it, it is also the false positive of
R168, which is accepted whatever frame it overlaps. -/
def Obligations.ResyncRecoversFrame : Prop :=
  ∀ s g f rest, s.buf = [] → f.valid = true → s.inbox = (g ++ f.toBytes ++ rest).map rxEdge →
    (∀ i, i < g.length → ∀ w, Frame.ofBytes ((g ++ f.toBytes ++ rest).drop i) = some w → w.valid = false) →
    ∃ t, Host.Core.run Sys2Proof.core (g.length + 9) s = .next t ∧ t.buf = [] ∧ t.inbox = rest.map rxEdge ∧
      t.sink = s.sink ++ [eventOf Config.abcIdx f]

/-- R98: a frame the encoder answered, fed to an empty decoder, gives exactly one Event, with the frame's code, payload
and checksum. Its parse error is PE_VERSION_NOT_ASCII exactly for code 0xA0 with one of the bytes 0 to 3 at least 0x80,
which only the override builds, and is absent exactly otherwise. -/
def Obligations.EncodeDecodeRoundTrip : Prop :=
  ∀ s t r rest f, s.inbox = .request r :: rest → s.buf = [] → step s = .next t → t.enc = some (.frame f) →
    ∃ u e, Host.Core.run Sys2Proof.core 9 { t with inbox := f.toBytes.map rxEdge } = .next u ∧
      u.buf = [] ∧ u.sink = s.sink ++ [e] ∧ e.code = f.code ∧ e.raw = f.payload ∧ e.checksum = f.cs ∧
      (e.parseError = some .versionNotAscii ↔ NotAsciiVersion f) ∧ (e.parseError = none ↔ ¬ NotAsciiVersion f) ∧
      (NotAsciiVersion f → r.rawEn = true ∧ e.version = none) ∧
      (f.code = 0x7D → e.abc = some (f.payload.get Config.abcIdx != 0)) ∧
      (f.code = 0xA0 → ¬ NotAsciiVersion f →
        e.version = some ⟨f.payload.p0, f.payload.p1, f.payload.p2, f.payload.p3⟩)

/-- R115, R21: a leading byte that is not the header is a different state that no observer can tell apart: with or
without it, every continuation delivers the same Events. -/
def Obligations.LeadingGarbageIsInvisible : Prop :=
  ∀ idx b rest chunk, b ≠ 0xFF → (feed idx (b :: rest) chunk).2 = (feed idx rest chunk).2

/-! ### Decoding and encoding -/

/-- Words written out from the spec's encodings decode to the instructions they stand for: the match words of the
three constant rows, 95_test_vectors.md 2.3 and 2.6. A table word holds no direction, so a word may fit several rows
(every one fits RAW, and a tx word fits the RX row of its code): that the first row of direction tx is taken, then the
decoder's case, is the model's choice (notes/assumptions/10.md, DESIGN CHOICE). The last three clauses are of windows
and do not rest on it. -/
def Obligations.DecodedWords : Prop :=
  decodeTableWord 72 0xFF7D00000000000083 = some (.queryAbc ⟨0, 0, 0⟩) ∧
  decodeTableWord 72 0xFF8D00000000000073 = some (.reset ⟨0, 0, 0⟩) ∧
  decodeTableWord 72 0xFFA000000000000060 = some (.queryFwVersion ⟨0, 0, 0⟩) ∧
  decodeTableWord 72 0xFF7E0212340000003A = some (.setInterval ⟨1, 0x1234, 0⟩) ∧
  decodeTableWord 72 0xFF8205DEADBEEF0041 = some (.writeConfig2 ⟨2, 0x05, 0xDEADBEEF⟩) ∧
  decodeTableWord 72 0xFF7D00000000000182 = some (.rxAbcStatus ⟨0, 0, 0, 0, 0, 1⟩ 0x82) ∧
  decodeTableWord 72 0xFF86026047000000D1 = some (.rxUnrecognised 0x86 ⟨0x02, 0x60, 0x47, 0, 0, 0⟩ 0xD1) ∧
  decodeRx [0xFF, 0xA0, 0x30, 0x34, 0x34, 0x33, 0x00, 0x00, 0x95] =
    .ok (.rxFwVersion ⟨0x30, 0x34, 0x34, 0x33, 0, 0⟩ 0x95) ∧
  decodeRx [0xFF, 0x7D, 0, 0, 0, 0, 0, 1, 0x83] = .error .badChecksum ∧
  decodeRx [0xFE, 0x7D, 0, 0, 0, 0, 0, 1, 0x82] = .error .badHeader

/-- Decode and encode agree, decoder cases: a valid window of a case decodes to it, whatever follows in the stream,
and a window decodes only to the case whose window it is. -/
def Obligations.WindowDecodeEncode : Prop :=
  (∀ i rest, i.direction = .rx → i.wf = true → decodeRx ((encode i).toBytes ++ rest) = .ok i) ∧
  (∀ b i, decodeRx b = .ok i → i.direction = .rx ∧ i.wf = true ∧ (encode i).toBytes = b.take 9)

/-- Decode and encode agree, outbound wire frames: the frame of an accepted operation decodes to the command that
built it, up to what the frame does not carry (`Instr.canonical`), and that command has the same frame. -/
def Obligations.WireDecodeEncode : Prop :=
  ∀ i, i.direction = .tx → i.wf = true →
    decodeTx (encode i) = .ok i.canonical ∧ encode i.canonical = encode i ∧ i.canonical.wf = true

/-- Decode and encode agree, request ports: every operation that is the row of its request is decoded from the ports
that name it, with every operand at every value; every request names an operation exactly when its code is a member
or the override is on. -/
def Obligations.RequestDecodeEncode : Prop :=
  (∀ i, i.direction = .tx → RowOfRequest i → ∃ r, encodeRequest i = some r ∧ decodeRequest r = .ok i) ∧
  (∀ r, (∃ i, decodeRequest r = .ok i) ↔ isCode r.code = true ∨ r.rawEn = true)

/-- 00_scope.md R8: the port vectors hold their bytes first byte most significant, and nothing is lost. -/
def Obligations.PortVectorsHoldTheirBytes : Prop :=
  (∀ f : Frame, Frame.ofBits f.toBits = f) ∧ (∀ p : Payload, Payload.ofBits p.toBits = p) ∧
  (∀ f : Frame, f.toBits.extractLsb' 64 8 = f.hdr ∧ f.toBits.extractLsb' 56 8 = f.code ∧
    f.toBits.extractLsb' 0 8 = f.cs) ∧
  (∀ (f : Frame) (i : Fin 6), f.toBits.extractLsb' (48 - 8 * i.val) 8 = f.payload.get i)
end

