-- ==== Sys2Proof/Laws/Bytes.lean ====
section
/-! SUPPORT. Byte order: the port vectors as numbers, fields taken out and put back, windows at the front of a byte
sequence. -/

namespace Sys2Proof

/-- Appending a byte below is multiplying by 256 and adding. -/
theorem toNat_append_byte {n : Nat} (x : BitVec n) (y : Byte) : (x ++ y).toNat = x.toNat * 256 + y.toNat := by
  rw [BitVec.toNat_append, Nat.shiftLeft_eq, Nat.mul_comm, ← Nat.two_pow_add_eq_or_of_lt y.isLt]

/-- A byte field is what its number says it is. -/
theorem extractByte_eq {n : Nat} (v : BitVec n) (k : Nat) (x : Byte) (h : v.toNat / 2 ^ k % 256 = x.toNat) :
    v.extractLsb' k 8 = x := by
  apply BitVec.eq_of_toNat_eq
  rw [BitVec.extractLsb'_toNat, Nat.shiftRight_eq_div_pow]
  exact h

theorem Payload.toBits_toNat (p : Payload) : p.toBits.toNat =
    ((((p.p0.toNat * 256 + p.p1.toNat) * 256 + p.p2.toNat) * 256 + p.p3.toNat) * 256 + p.p4.toNat) * 256 +
      p.p5.toNat := by
  unfold Payload.toBits
  simp only [toNat_append_byte]

theorem Frame.toBits_toNat (f : Frame) : f.toBits.toNat =
    (((((((f.hdr.toNat * 256 + f.code.toNat) * 256 + f.payload.p0.toNat) * 256 + f.payload.p1.toNat) * 256 +
      f.payload.p2.toNat) * 256 + f.payload.p3.toNat) * 256 + f.payload.p4.toNat) * 256 + f.payload.p5.toNat) * 256 +
      f.cs.toNat := by
  unfold Frame.toBits
  simp only [toNat_append_byte]

/-- The high byte of a 16-bit number is its quotient by 256. -/
theorem highByte_eq (v : BitVec 16) : BitVec.ofNat 8 (v.toNat / 256) = v.extractLsb' 8 8 := by
  apply BitVec.eq_of_toNat_eq
  simp [BitVec.extractLsb'_toNat, Nat.shiftRight_eq_div_pow]

/-- The low byte of a 16-bit number is its remainder by 256. -/
theorem lowByte_eq (v : BitVec 16) : BitVec.ofNat 8 (v.toNat % 256) = v.extractLsb' 0 8 := by
  apply BitVec.eq_of_toNat_eq
  simp [BitVec.extractLsb'_toNat]

/-- `be16` loses nothing. -/
theorem be16_append (v : BitVec 16) : v.extractLsb' 8 8 ++ v.extractLsb' 0 8 = v := by
  apply BitVec.eq_of_toNat_eq
  rw [toNat_append_byte]
  simp only [BitVec.extractLsb'_toNat, Nat.shiftRight_eq_div_pow]
  have := v.isLt
  omega

/-- `be32` loses nothing. -/
theorem be32_append (v : BitVec 32) :
    v.extractLsb' 24 8 ++ v.extractLsb' 16 8 ++ v.extractLsb' 8 8 ++ v.extractLsb' 0 8 = v := by
  apply BitVec.eq_of_toNat_eq
  simp only [toNat_append_byte, BitVec.extractLsb'_toNat, Nat.shiftRight_eq_div_pow]
  have := v.isLt
  omega

@[simp] theorem Payload.toBytes_length (p : Payload) : p.toBytes.length = 6 := rfl
@[simp] theorem Frame.toBytes_length (f : Frame) : f.toBytes.length = 9 := rfl
@[simp] theorem Frame.body_length (f : Frame) : f.body.length = 7 := rfl

/-! ### Windows -/

theorem Frame.ofBytes_toBytes_append (w : Frame) (rest : List Byte) : Frame.ofBytes (w.toBytes ++ rest) = some w := rfl

theorem Frame.ofBytes_short {b : List Byte} (h : b.length < 9) : Frame.ofBytes b = none := by
  unfold Frame.ofBytes
  split
  · simp at h
    omega
  · rfl

theorem Frame.ofBytes_split {b : List Byte} {w : Frame} (h : Frame.ofBytes b = some w) :
    b = w.toBytes ++ b.drop 9 := by
  unfold Frame.ofBytes at h
  split at h
  · cases h
    rfl
  · cases h

theorem Frame.ofBytes_long {b : List Byte} (h : 9 ≤ b.length) : ∃ w, Frame.ofBytes b = some w := by
  rcases b with _ | ⟨_, _ | ⟨_, _ | ⟨_, _ | ⟨_, _ | ⟨_, _ | ⟨_, _ | ⟨_, _ | ⟨_, _ | ⟨_, _⟩⟩⟩⟩⟩⟩⟩⟩⟩ <;> simp at h
  exact ⟨_, rfl⟩

theorem Frame.length_of_ofBytes {b : List Byte} {w : Frame} (h : Frame.ofBytes b = some w) : 9 ≤ b.length := by
  by_contra hc
  rw [Frame.ofBytes_short (by omega)] at h
  cases h

/-- The window at the front does not depend on what follows it. -/
theorem Frame.ofBytes_append {b : List Byte} {w : Frame} (h : Frame.ofBytes b = some w) (rest : List Byte) :
    Frame.ofBytes (b ++ rest) = some w := by
  rw [Frame.ofBytes_split h, List.append_assoc]
  rfl

end Sys2Proof
end

