-- ==== Sys2Proof/Laws/Codes.lean ====
section
/-! SUPPORT. The CommandCode model: membership by cases, argument counts, `resolve_family` on and off its
precondition, sums of bytes, and frames assembled with their checksum. -/

namespace Sys2Proof

theorem isCode_iff_mem (c : Byte) : isCode c = true ↔ c ∈ codes := by simp [isCode]

/-- The 13 members, one by one. -/
theorem isCode_cases {c : Byte} (h : isCode c = true) :
    c = 0x79 ∨ c = 0x7D ∨ c = 0x7E ∨ c = 0x80 ∨ c = 0x81 ∨ c = 0x82 ∨ c = 0x83 ∨ c = 0x8D ∨ c = 0x90 ∨ c = 0x91 ∨
      c = 0x92 ∨ c = 0x93 ∨ c = 0xA0 := by
  rw [isCode_iff_mem] at h
  simpa only [codes, List.mem_cons, List.not_mem_nil, or_false] using h

theorem isGeneric_cases {g : Byte} (h : isGeneric g = true) : g = 0x80 ∨ g = 0x90 := by
  simpa [isGeneric] using h

theorem argcReq_79 : argcReq 0x79 = some 1 := by decide
theorem argcReq_7D : argcReq 0x7D = some 0 := by decide
theorem argcReq_7E : argcReq 0x7E = some 1 := by decide
theorem argcReq_80 : argcReq 0x80 = some 2 := by decide
theorem argcReq_81 : argcReq 0x81 = some 2 := by decide
theorem argcReq_82 : argcReq 0x82 = some 2 := by decide
theorem argcReq_83 : argcReq 0x83 = some 2 := by decide
theorem argcReq_8D : argcReq 0x8D = some 0 := by decide
theorem argcReq_90 : argcReq 0x90 = some 1 := by decide
theorem argcReq_91 : argcReq 0x91 = some 1 := by decide
theorem argcReq_92 : argcReq 0x92 = some 1 := by decide
theorem argcReq_93 : argcReq 0x93 = some 1 := by decide
theorem argcReq_A0 : argcReq 0xA0 = some 0 := by decide

/-- On its precondition `resolve_family` divides the offset by 256. -/
theorem resolveFamily_inRange {g : Byte} {off : BitVec 16} (hg : isGeneric g = true) (h : off.toNat ≤ 1023) :
    resolveFamily g off = some (g + BitVec.ofNat 8 (off.toNat / 256), BitVec.ofNat 8 (off.toNat % 256)) := by
  have hi : (off >>> 8).setWidth 8 = BitVec.ofNat 8 (off.toNat / 256) := by
    apply BitVec.eq_of_toNat_eq
    simp [Nat.shiftRight_eq_div_pow]
  have lo : (off &&& 0xFF).setWidth 8 = BitVec.ofNat 8 (off.toNat % 256) := by
    apply BitVec.eq_of_toNat_eq
    rw [BitVec.toNat_setWidth, BitVec.toNat_and, show BitVec.toNat (255 : BitVec 16) = 2 ^ 8 - 1 from rfl,
      Nat.and_two_pow_sub_one_eq_mod]
    simp
  rw [resolveFamily, hg, hi, lo]
  simp [h]

theorem resolveFamily_outOfRange {g : Byte} {off : BitVec 16} (h : 1023 < off.toNat) : resolveFamily g off = none := by
  simp [resolveFamily, offsetMax, Nat.not_le.mpr h]

/-! ### Sums and the checksum -/

@[simp] theorem byteSum_nil : byteSum [] = 0 := rfl

theorem byteSum_cons (a : Byte) (l : List Byte) : byteSum (a :: l) = a.toNat + byteSum l := by simp [byteSum]

theorem byteSum_append (k l : List Byte) : byteSum (k ++ l) = byteSum k + byteSum l := by simp [byteSum]

/-- Replacing one byte moves the sum by the difference. -/
theorem byteSum_set (l : List Byte) (i : Nat) (v : Byte) (h : i < l.length) :
    byteSum (l.set i v) + l[i].toNat = byteSum l + v.toNat := by
  induction l generalizing i with
  | nil => simp at h
  | cons a l ih =>
    cases i with
    | zero =>
      simp [byteSum_cons]
      omega
    | succ i =>
      have := ih i (by simpa using h)
      simp only [List.set_cons_succ, byteSum_cons, List.getElem_cons_succ]
      omega

/-- The two masks of the formula are remainders by 256. -/
theorem checksum_eq_mod (b : List Byte) : checksum b = BitVec.ofNat 8 ((255 - byteSum b % 256 + 1) % 256) := by
  have low (x : Nat) : x &&& 0xFF = x % 256 := Nat.and_two_pow_sub_one_eq_mod x 8
  unfold checksum
  rw [low, low]

/-! ### Validity -/

theorem Frame.valid_iff_fields (w : Frame) : w.valid = true ↔ w.hdr = 0xFF ∧ checksum w.body = w.cs := by
  simp [Frame.valid]

/-- An assembled frame is valid whatever its code and payload. -/
theorem assemble_valid (c : Byte) (p : Payload) : (assemble c p).valid = true := by
  simp [assemble, Frame.valid, Frame.body]

@[simp] theorem assemble_hdr (c : Byte) (p : Payload) : (assemble c p).hdr = 0xFF := rfl
@[simp] theorem assemble_code (c : Byte) (p : Payload) : (assemble c p).code = c := rfl
@[simp] theorem assemble_payload (c : Byte) (p : Payload) : (assemble c p).payload = p := rfl

/-- ASCII as one bit: the OR of four bytes has bit 7 clear exactly when each is at most 0x7F. -/
theorem versionOk_iff_or (p : Payload) : versionOk p = true ↔ (p.p0 ||| p.p1 ||| p.p2 ||| p.p3).msb = false := by
  have small (x : Byte) : x.msb = false ↔ x.toNat ≤ 127 := by
    rw [BitVec.msb_eq_false_iff_two_mul_lt]
    omega
  simp only [versionOk, isAscii, BitVec.msb_or, Bool.or_eq_false_iff, Bool.and_eq_true, decide_eq_true_iff, small]

end Sys2Proof
end

