-- ==== Sys2Proof/Laws/Decode.lean ====
section
/-! SUPPORT. What each decoder answers, by cases on the bytes or the ports. -/

namespace Sys2Proof

theorem checkFrame_valid {w : Frame} (h : w.valid = true) : checkFrame w = .ok w := by
  rw [Frame.valid_iff_fields] at h
  simp [checkFrame, h.1, h.2]

theorem checkFrame_invalid {w : Frame} (h : w.valid = false) : ∃ e, checkFrame w = .error e ∧ e ≠ .incomplete := by
  have hn : ¬ (w.hdr = 0xFF ∧ checksum w.body = w.cs) := by
    rw [← Frame.valid_iff_fields]
    simp [h]
  unfold checkFrame
  split
  · exact ⟨_, rfl, by decide⟩
  · split
    · exact ⟨_, rfl, by decide⟩
    · simp_all

theorem decodeRx_incomplete {b : List Byte} (h : Frame.ofBytes b = none) : decodeRx b = .error .incomplete := by
  simp [decodeRx, h]

theorem decodeRx_of_valid {b : List Byte} {w : Frame} (h : Frame.ofBytes b = some w) (hv : w.valid = true) :
    decodeRx b = .ok (windowInstr w) := by
  simp [decodeRx, h, checkFrame_valid hv]

theorem decodeRx_of_invalid {b : List Byte} {w : Frame} (h : Frame.ofBytes b = some w) (hv : w.valid = false) :
    ∃ e, decodeRx b = .error e ∧ e ≠ .incomplete := by
  obtain ⟨e, he, hn⟩ := checkFrame_invalid hv
  exact ⟨e, by simp [decodeRx, h, he], hn⟩

/-- What a decoded window was. -/
theorem decodeRx_ok_inv {b : List Byte} {i : Instr} (h : decodeRx b = .ok i) :
    ∃ w, Frame.ofBytes b = some w ∧ w.valid = true ∧ i = windowInstr w := by
  cases ho : Frame.ofBytes b with
  | none =>
    rw [decodeRx_incomplete ho] at h
    cases h
  | some w =>
    cases hv : w.valid with
    | true =>
      rw [decodeRx_of_valid ho hv] at h
      cases h
      exact ⟨w, rfl, hv, rfl⟩
    | false =>
      obtain ⟨e, he, _⟩ := decodeRx_of_invalid ho hv
      rw [he] at h
      cases h

/-- A code byte that is no member falls through to the fallback. -/
theorem windowInstr_unrecognised {w : Frame} (h : isCode w.code = false) :
    windowInstr w = .rxUnrecognised w.code w.payload w.cs := by
  simp only [isCode, codes, List.contains_eq_mem, decide_eq_false_iff_not, List.mem_cons, not_or] at h
  unfold windowInstr
  simp only [h, if_false]

/-- The case of a valid window is a decoder case, well-formed, and its window is that window. -/
theorem windowInstr_spec (w : Frame) (hv : w.valid = true) :
    (windowInstr w).direction = .rx ∧ (windowInstr w).wf = true ∧ encode (windowInstr w) = w := by
  rw [Frame.valid_iff_fields] at hv
  obtain ⟨hh, hc⟩ := hv
  obtain ⟨hd, c, p, cs⟩ := w
  simp only [Frame.body] at hc hh
  subst hh
  cases hm : isCode c with
  | true =>
    rcases isCode_cases hm with rfl | rfl | rfl | rfl | rfl | rfl | rfl | rfl | rfl | rfl | rfl | rfl | rfl <;>
      exact ⟨rfl, beq_iff_eq.2 hc, rfl⟩
  | false =>
    rw [windowInstr_unrecognised hm]
    exact ⟨rfl, by simp [Instr.wf, hc, hm], rfl⟩

theorem genericRow_cases (a : Args) (f g : Args → Instr) : genericRow a f g = f a ∨ genericRow a f g = g a := by
  unfold genericRow
  split <;> simp

theorem decodeRequest_raw (c : Byte) (a : Args) (v : BitVec 48) : decodeRequest ⟨c, a, true, v⟩ = .ok (.raw c v) := rfl

theorem decodeRequest_notMember {c : Byte} {a : Args} {v : BitVec 48} (h : isCode c = false) :
    decodeRequest ⟨c, a, false, v⟩ = .error .badCode := by
  simp only [isCode, codes, List.contains_eq_mem, decide_eq_false_iff_not, List.mem_cons, not_or] at h
  unfold decodeRequest
  simp only [h, if_false, Bool.false_eq_true]

theorem decodeRequest_member {c : Byte} {a : Args} {v : BitVec 48} (h : isCode c = true) :
    ∃ i, decodeRequest ⟨c, a, false, v⟩ = .ok i ∧ i.direction = .tx := by
  rcases isCode_cases h with rfl | rfl | rfl | rfl | rfl | rfl | rfl | rfl | rfl | rfl | rfl | rfl | rfl
  case inr.inr.inr.inl =>
    refine ⟨_, rfl, ?_⟩
    rcases genericRow_cases a .writeConfig .writeConfigGeneric with h | h <;> rw [h] <;> rfl
  case inr.inr.inr.inr.inr.inr.inr.inr.inl =>
    refine ⟨_, rfl, ?_⟩
    rcases genericRow_cases a .readConfig .readConfigGeneric with h | h <;> rw [h] <;> rfl
  all_goals exact ⟨_, rfl, rfl⟩

/-- A request only ever names an encoder operation. -/
theorem decodeRequest_direction {r : EncRequest} {i : Instr} (h : decodeRequest r = .ok i) : i.direction = .tx := by
  obtain ⟨c, a, re, v⟩ := r
  cases re with
  | true =>
    rw [decodeRequest_raw] at h
    cases h
    rfl
  | false =>
    cases hc : isCode c with
    | false =>
      rw [decodeRequest_notMember hc] at h
      cases h
    | true =>
      obtain ⟨j, hj, hd⟩ := decodeRequest_member (a := a) (v := v) hc
      rw [hj] at h
      cases h
      exact hd

theorem wireFrame_valid (c : Byte) (p : Payload) : (wireFrame c p).valid = true := by
  simp [wireFrame, Frame.valid, Frame.body]

theorem writeArgs_writeFields (a : Args) :
    writeArgs (writeFields a) = ⟨2, (a.arg0.extractLsb' 0 8).setWidth 16, a.arg1⟩ := by
  unfold writeArgs writeFields
  simp only [be32_append]

theorem readArgs_readFields (a : Args) :
    readArgs (readFields a) = ⟨1, (a.arg0.extractLsb' 0 8).setWidth 16, 0⟩ := rfl

/-- An offset-low byte is its own low byte. -/
theorem offsetLow_self {x : BitVec 16} (h : x.toNat ≤ 255) : (x.extractLsb' 0 8).setWidth 16 = x := by
  apply BitVec.eq_of_toNat_eq
  simp [BitVec.extractLsb'_toNat]
  omega

/-- A two-bit block is one of four. -/
theorem block_cases (x : BitVec 2) : x = 0 ∨ x = 1 ∨ x = 2 ∨ x = 3 := by
  revert x
  decide

end Sys2Proof
end

