-- ==== Sys2Proof/Laws/Feed.lean ====
section
/-! SUPPORT. One iteration of `feed` by cases, and the fields an Event takes from its window. -/

namespace Sys2Proof.Machine

theorem feedLoop_short (idx : Fin 6) (n : Nat) {b : List Byte} (h : b.length < 9) : feedLoop idx n b = (b, []) := by
  cases n with
  | zero => rfl
  | succ n => rw [feedLoop, Frame.ofBytes_short h]

theorem feedLoop_valid (idx : Fin 6) (n : Nat) {b : List Byte} {w : Frame} (h : Frame.ofBytes b = some w)
    (hv : w.valid = true) : feedLoop idx (n + 1) b =
      ((feedLoop idx n (b.drop 9)).1, eventOf idx w :: (feedLoop idx n (b.drop 9)).2) := by
  rw [feedLoop, h]
  simp only [hv, if_true]

theorem feedLoop_invalid (idx : Fin 6) (n : Nat) {b : List Byte} {w : Frame} (h : Frame.ofBytes b = some w)
    (hv : w.valid = false) : feedLoop idx (n + 1) b = feedLoop idx n (b.drop 1) := by
  rw [feedLoop, h]
  simp [hv]

theorem eventOf_code (idx : Fin 6) (w : Frame) : (eventOf idx w).code = w.code := by
  unfold eventOf
  repeat' split
  all_goals rfl

theorem eventOf_raw (idx : Fin 6) (w : Frame) : (eventOf idx w).raw = w.payload := by
  unfold eventOf
  repeat' split
  all_goals rfl

theorem eventOf_checksum (idx : Fin 6) (w : Frame) : (eventOf idx w).checksum = w.cs := by
  unfold eventOf
  repeat' split
  all_goals rfl

/-- The bytes of a stream presented one by one are that stream. -/
theorem rxBytes_map (l : List Byte) : rxBytes (l.map rxEdge) = l := by
  induction l with
  | nil => rfl
  | cons a l ih => simp only [List.map_cons, rxBytes, ih]

theorem noReset_map (l : List Byte) : noReset (l.map rxEdge) = true := by
  induction l with
  | nil => rfl
  | cons a l ih => exact ih

end Sys2Proof.Machine
end

