-- ==== Sys2Proof/Laws/State.lean ====
section
/-! SUPPORT. One lemma per field per update of the state, so that no proof unfolds a record update. -/

namespace Sys2Proof.Machine

@[simp] theorem State.append_buf (s : State) (b : Byte) : (s.append b).buf = s.buf ++ [b] := rfl
@[simp] theorem State.append_ev (s : State) (b : Byte) : (s.append b).ev = s.ev := rfl
@[simp] theorem State.append_enc (s : State) (b : Byte) : (s.append b).enc = s.enc := rfl
@[simp] theorem State.append_sink (s : State) (b : Byte) : (s.append b).sink = s.sink := rfl
@[simp] theorem State.append_inbox (s : State) (b : Byte) : (s.append b).inbox = s.inbox := rfl

@[simp] theorem State.drop_buf (s : State) (n : Nat) : (s.drop n).buf = s.buf.drop n := rfl
@[simp] theorem State.drop_ev (s : State) (n : Nat) : (s.drop n).ev = s.ev := rfl
@[simp] theorem State.drop_enc (s : State) (n : Nat) : (s.drop n).enc = s.enc := rfl
@[simp] theorem State.drop_sink (s : State) (n : Nat) : (s.drop n).sink = s.sink := rfl
@[simp] theorem State.drop_inbox (s : State) (n : Nat) : (s.drop n).inbox = s.inbox := rfl

@[simp] theorem State.emit_buf (s : State) (e : Event) : (s.emit e).buf = s.buf := rfl
@[simp] theorem State.emit_ev (s : State) (e : Event) : (s.emit e).ev = some e := rfl
@[simp] theorem State.emit_enc (s : State) (e : Event) : (s.emit e).enc = s.enc := rfl
@[simp] theorem State.emit_sink (s : State) (e : Event) : (s.emit e).sink = s.sink ++ [e] := rfl
@[simp] theorem State.emit_inbox (s : State) (e : Event) : (s.emit e).inbox = s.inbox := rfl

@[simp] theorem State.quiet_buf (s : State) : (s.quiet).buf = s.buf := rfl
@[simp] theorem State.quiet_ev (s : State) : (s.quiet).ev = none := rfl
@[simp] theorem State.quiet_enc (s : State) : (s.quiet).enc = s.enc := rfl
@[simp] theorem State.quiet_sink (s : State) : (s.quiet).sink = s.sink := rfl
@[simp] theorem State.quiet_inbox (s : State) : (s.quiet).inbox = s.inbox := rfl

@[simp] theorem State.blockReset_buf (s : State) : (s.blockReset).buf = [] := rfl
@[simp] theorem State.blockReset_ev (s : State) : (s.blockReset).ev = none := rfl
@[simp] theorem State.blockReset_enc (s : State) : (s.blockReset).enc = s.enc := rfl
@[simp] theorem State.blockReset_sink (s : State) : (s.blockReset).sink = s.sink := rfl
@[simp] theorem State.blockReset_inbox (s : State) : (s.blockReset).inbox = s.inbox := rfl

@[simp] theorem State.answer_buf (s : State) (f : Frame) : (s.answer f).buf = s.buf := rfl
@[simp] theorem State.answer_ev (s : State) (f : Frame) : (s.answer f).ev = s.ev := rfl
@[simp] theorem State.answer_enc (s : State) (f : Frame) : (s.answer f).enc = some (.frame f) := rfl
@[simp] theorem State.answer_sink (s : State) (f : Frame) : (s.answer f).sink = s.sink := rfl
@[simp] theorem State.answer_inbox (s : State) (f : Frame) : (s.answer f).inbox = s.inbox := rfl

@[simp] theorem State.raiseInvalidArgument_buf (s : State) (c : EncErr) : (s.raiseInvalidArgument c).buf = s.buf := rfl
@[simp] theorem State.raiseInvalidArgument_ev (s : State) (c : EncErr) : (s.raiseInvalidArgument c).ev = s.ev := rfl
@[simp] theorem State.raiseInvalidArgument_enc (s : State) (c : EncErr) : (s.raiseInvalidArgument c).enc = some (.refusal c) := rfl
@[simp] theorem State.raiseInvalidArgument_sink (s : State) (c : EncErr) : (s.raiseInvalidArgument c).sink = s.sink := rfl
@[simp] theorem State.raiseInvalidArgument_inbox (s : State) (c : EncErr) : (s.raiseInvalidArgument c).inbox = s.inbox := rfl

end Sys2Proof.Machine
end

