-- ==== Sys2Proof/Laws/Ops.lean ====
section
/-! SUPPORT. One lemma per shared operation of the meanings, and what an operation of each direction can do at all. -/

namespace Sys2Proof.Machine

theorem requireArgc_met {code : Byte} {a : Args} {s : State} {go : Result} (h : argcReq code = some a.argc) :
    requireArgc code a s go = go := by
  simp [requireArgc, h]

theorem requireArgc_missed {code : Byte} {a : Args} {s : State} {go : Result} (h : argcReq code ≠ some a.argc) :
    requireArgc code a s go = .next (s.raiseInvalidArgument .argc) := by
  simp [requireArgc, h]

/-- `requireArgc` goes on with the right count and refuses with `EE_ARGC` with any other. -/
theorem requireArgc_of_count {code : Byte} {n : BitVec 2} (hc : argcReq code = some n) (a : Args) (s : State)
    (go : Result) :
    (a.argc = n → requireArgc code a s go = go) ∧
    (a.argc ≠ n → requireArgc code a s go = .next (s.raiseInvalidArgument .argc)) :=
  ⟨fun h => requireArgc_met (by rw [hc, h]), fun h => requireArgc_missed (by rw [hc]; simpa using Ne.symm h)⟩

theorem requireOffsetLow_inRange {a : Args} {s : State} {go : Byte → Result} (h : a.arg0.toNat ≤ 255) :
    requireOffsetLow a s go = go (a.arg0.setWidth 8) := if_pos h

theorem requireOffsetLow_outOfRange {a : Args} {s : State} {go : Byte → Result} (h : 255 < a.arg0.toNat) :
    requireOffsetLow a s go = .next (s.raiseInvalidArgument .range) := if_neg (Nat.not_le.mpr h)

theorem requireResolved_inRange {g : Byte} {a : Args} {s : State} {go : Byte → Byte → Result}
    (hg : isGeneric g = true) (h : a.arg0.toNat ≤ 1023) :
    requireResolved g a s go =
      go (g + BitVec.ofNat 8 (a.arg0.toNat / 256)) (BitVec.ofNat 8 (a.arg0.toNat % 256)) := by
  rw [requireResolved, resolveFamily_inRange hg h]

theorem requireResolved_outOfRange {g : Byte} {a : Args} {s : State} {go : Byte → Byte → Result}
    (h : 1023 < a.arg0.toNat) :
    requireResolved g a s go = .next (s.raiseInvalidArgument .range) := by
  rw [requireResolved, resolveFamily_outOfRange h]

theorem send_next (c : Byte) (p : Payload) (s : State) : send c p s = .next (s.answer (assemble c p)) := rfl

theorem deliver_next (e : Event) (s : State) : deliver e s = .next ((s.drop 9).emit e) := rfl

/-- Every operation has one of the two directions. -/
theorem direction_cases (i : Instr) : i.direction = .tx ∨ i.direction = .rx := by
  cases i.direction <;> simp

/-- A result that is the given state with one answer of the encoder. -/
abbrev OnlyAnswers (s : State) (r : Result) : Prop := ∃ x, r = .next { s with enc := some x }

theorem send_onlyAnswers (c : Byte) (p : Payload) (s : State) : OnlyAnswers s (send c p s) := ⟨_, rfl⟩

theorem requireArgc_onlyAnswers {code : Byte} {a : Args} {s : State} {go : Result} (h : OnlyAnswers s go) :
    OnlyAnswers s (requireArgc code a s go) := by
  unfold requireArgc
  split
  · exact h
  · exact ⟨_, rfl⟩

theorem requireOffsetLow_onlyAnswers {a : Args} {s : State} {go : Byte → Result} (h : ∀ lo, OnlyAnswers s (go lo)) :
    OnlyAnswers s (requireOffsetLow a s go) := by
  unfold requireOffsetLow
  split
  · exact h _
  · exact ⟨_, rfl⟩

theorem requireResolved_onlyAnswers {g : Byte} {a : Args} {s : State} {go : Byte → Byte → Result}
    (h : ∀ c lo, OnlyAnswers s (go c lo)) : OnlyAnswers s (requireResolved g a s go) := by
  unfold requireResolved
  split
  · exact h _ _
  · exact ⟨_, rfl⟩

/-- Everything an encoder operation can do: answer. -/
theorem exec_tx_onlyAnswers (i : Instr) (s : State) (h : i.direction = .tx) : OnlyAnswers s (exec i s) := by
  cases i <;> simp only [Instr.direction, reduceCtorEq] at h
  case raw c v =>
    simp only [exec, execRaw]
    split
    · exact send_onlyAnswers _ _ _
    · exact ⟨_, rfl⟩
  all_goals first
    | exact requireArgc_onlyAnswers (send_onlyAnswers _ _ _)
    | exact requireArgc_onlyAnswers (requireOffsetLow_onlyAnswers fun _ => send_onlyAnswers _ _ _)
    | exact requireArgc_onlyAnswers (requireResolved_onlyAnswers fun _ _ => send_onlyAnswers _ _ _)

/-- Everything a decoder case can do: deliver one Event. -/
theorem exec_rx_delivers (i : Instr) (s : State) (h : i.direction = .rx) : ∃ e, exec i s = deliver e s := by
  cases i <;> simp only [Instr.direction, reduceCtorEq] at h
  case rxFwVersion p cs =>
    simp only [exec, execRxFwVersion]
    split <;> exact ⟨_, rfl⟩
  all_goals exact ⟨_, rfl⟩

end Sys2Proof.Machine
end

