-- ==== Sys2Proof/Laws/PerInstr.lean ====
section
/-! SUPPORT. The per-instruction family: the nine bytes of a well-formed instruction are a valid frame. -/

namespace Sys2Proof.Laws.EncodeValid

/-- The bytes the encoding tables give a well-formed instruction start with the header and carry their checksum
(30_encoding.md R50, R51). -/
def Statement (i : Instr) : Prop := i.wf = true → (encode i).valid = true

theorem toggleAbc (a : Args) : Statement (.toggleAbc a) := fun _ => wireFrame_valid _ _
theorem queryAbc (a : Args) : Statement (.queryAbc a) := fun _ => by simp only [encode]; decide
theorem setInterval (a : Args) : Statement (.setInterval a) := fun _ => wireFrame_valid _ _
theorem writeConfig (a : Args) : Statement (.writeConfig a) := fun _ => wireFrame_valid _ _
theorem writeConfig1 (a : Args) : Statement (.writeConfig1 a) := fun _ => wireFrame_valid _ _
theorem writeConfig2 (a : Args) : Statement (.writeConfig2 a) := fun _ => wireFrame_valid _ _
theorem writeConfig3 (a : Args) : Statement (.writeConfig3 a) := fun _ => wireFrame_valid _ _
theorem reset (a : Args) : Statement (.reset a) := fun _ => by simp only [encode]; decide
theorem readConfig (a : Args) : Statement (.readConfig a) := fun _ => wireFrame_valid _ _
theorem readConfig1 (a : Args) : Statement (.readConfig1 a) := fun _ => wireFrame_valid _ _
theorem readConfig2 (a : Args) : Statement (.readConfig2 a) := fun _ => wireFrame_valid _ _
theorem readConfig3 (a : Args) : Statement (.readConfig3 a) := fun _ => wireFrame_valid _ _
theorem queryFwVersion (a : Args) : Statement (.queryFwVersion a) := fun _ => by simp only [encode]; decide
theorem writeConfigGeneric (a : Args) : Statement (.writeConfigGeneric a) := fun _ => wireFrame_valid _ _
theorem readConfigGeneric (a : Args) : Statement (.readConfigGeneric a) := fun _ => wireFrame_valid _ _
theorem raw (c : Byte) (v : BitVec 48) : Statement (.raw c v) := fun _ => wireFrame_valid _ _

/-- A window with the header and its checksum is valid. -/
theorem window {code cs : Byte} {p : Payload} (h : (checksum (code :: p.toBytes) == cs) = true) :
    (Frame.mk 0xFF code p cs).valid = true := by
  simpa [Frame.valid, Frame.body] using h

theorem rxAbcStatus (p : Payload) (cs : Byte) : Statement (.rxAbcStatus p cs) := fun h => window h
theorem rxFwVersion (p : Payload) (cs : Byte) : Statement (.rxFwVersion p cs) := fun h => window h
theorem rxToggleAbc (p : Payload) (cs : Byte) : Statement (.rxToggleAbc p cs) := fun h => window h
theorem rxSetInterval (p : Payload) (cs : Byte) : Statement (.rxSetInterval p cs) := fun h => window h
theorem rxWriteConfig (p : Payload) (cs : Byte) : Statement (.rxWriteConfig p cs) := fun h => window h
theorem rxWriteConfig1 (p : Payload) (cs : Byte) : Statement (.rxWriteConfig1 p cs) := fun h => window h
theorem rxWriteConfig2 (p : Payload) (cs : Byte) : Statement (.rxWriteConfig2 p cs) := fun h => window h
theorem rxWriteConfig3 (p : Payload) (cs : Byte) : Statement (.rxWriteConfig3 p cs) := fun h => window h
theorem rxReset (p : Payload) (cs : Byte) : Statement (.rxReset p cs) := fun h => window h
theorem rxReadConfig (p : Payload) (cs : Byte) : Statement (.rxReadConfig p cs) := fun h => window h
theorem rxReadConfig1 (p : Payload) (cs : Byte) : Statement (.rxReadConfig1 p cs) := fun h => window h
theorem rxReadConfig2 (p : Payload) (cs : Byte) : Statement (.rxReadConfig2 p cs) := fun h => window h
theorem rxReadConfig3 (p : Payload) (cs : Byte) : Statement (.rxReadConfig3 p cs) := fun h => window h
theorem rxUnrecognised (c : Byte) (p : Payload) (cs : Byte) : Statement (.rxUnrecognised c p cs) := fun h =>
  window ((Bool.and_eq_true _ _).mp h).2

end Sys2Proof.Laws.EncodeValid
end

