-- ==== Sys2Proof/Laws/Step.lean ====
section
/-! SUPPORT. What a step does, by cases on the stimulus, and how a run takes its first step. -/

namespace Sys2Proof.Machine

theorem receive_short {s : State} {b : Byte} (h : s.buf.length < 8) : receive b s = .done (s.append b).quiet := by
  unfold receive
  rw [decodeRx_incomplete]
  apply Frame.ofBytes_short
  simp
  omega

theorem receive_valid {s : State} {b : Byte} {w : Frame} (h : Frame.ofBytes (s.buf ++ [b]) = some w)
    (hv : w.valid = true) : receive b s = .run (windowInstr w) (s.append b) := by
  unfold receive
  rw [State.append_buf, decodeRx_of_valid h hv]

theorem receive_invalid {s : State} {b : Byte} {w : Frame} (h : Frame.ofBytes (s.buf ++ [b]) = some w)
    (hv : w.valid = false) : receive b s = .done ((s.append b).drop 1).quiet := by
  unfold receive
  obtain ⟨e, he, hn⟩ := decodeRx_of_invalid h hv
  rw [State.append_buf, he]
  cases e <;> simp_all

theorem step_of_run {s t : State} {i : Instr} (h : fetch s = .run i t) : step s = exec i t := by
  unfold step
  rw [h]

theorem step_of_done {s t : State} (h : fetch s = .done t) : step s = .next t := by
  unfold step
  rw [h]

theorem fetch_edge {s : State} {x v : Bool} {b : Byte} {rest : List Stimulus} (h : s.inbox = .edge x v b :: rest) :
    fetch s = clockEdge x v b { s with inbox := rest } := by
  unfold fetch
  rw [h]

theorem fetch_request {s : State} {r : EncRequest} {rest : List Stimulus} (h : s.inbox = .request r :: rest) :
    fetch s = present r { s with inbox := rest } := by
  unfold fetch
  rw [h]

/-- A byte is fetched as `receive` says. -/
theorem fetch_byte {s : State} {b : Byte} {rest : List Stimulus} (h : s.inbox = rxEdge b :: rest) :
    fetch s = receive b { s with inbox := rest } := fetch_edge h

/-- A request answers and takes the request; nothing else changes. -/
theorem step_request_onlyAnswers {s : State} {r : EncRequest} {rest : List Stimulus}
    (h : s.inbox = .request r :: rest) : OnlyAnswers { s with inbox := rest } (step s) := by
  have hf := fetch_request h
  unfold present at hf
  cases hd : decodeRequest r with
  | error e =>
    rw [hd] at hf
    rw [step_of_done hf]
    exact ⟨_, rfl⟩
  | ok i =>
    rw [hd] at hf
    rw [step_of_run hf]
    exact exec_tx_onlyAnswers i _ (decodeRequest_direction hd)

/-- Everything a step can do, with the condition of each case. -/
theorem step_cases (s : State) :
    (∃ rest, (s.inbox = [] ∧ rest = [] ∨ ∃ b, s.inbox = .edge false false b :: rest) ∧
      step s = .next { s with ev := none, inbox := rest }) ∨
    (∃ v b rest, s.inbox = .edge true v b :: rest ∧ step s = .next { s with buf := [], ev := none, inbox := rest }) ∨
    (∃ r rest, s.inbox = .request r :: rest ∧ ∃ x, step s = .next { s with enc := some x, inbox := rest }) ∨
    (∃ b rest, s.inbox = rxEdge b :: rest ∧
      ((s.buf.length < 8 ∧ step s = .next { s with buf := s.buf ++ [b], ev := none, inbox := rest }) ∨
        (∃ w, Frame.ofBytes (s.buf ++ [b]) = some w ∧ w.valid = true ∧
          step s = exec (windowInstr w) { s with buf := s.buf ++ [b], inbox := rest }) ∨
        (∃ w, Frame.ofBytes (s.buf ++ [b]) = some w ∧ w.valid = false ∧
          step s = .next { s with buf := (s.buf ++ [b]).drop 1, ev := none, inbox := rest }))) := by
  rcases hi : s.inbox with _ | ⟨⟨x, v, b⟩ | r, rest⟩
  · refine .inl ⟨[], .inl ⟨rfl, rfl⟩, ?_⟩
    rw [step]
    simp only [fetch, hi, State.quiet]
  · cases x with
    | true => exact .inr (.inl ⟨v, b, rest, rfl, step_of_done (fetch_edge hi)⟩)
    | false =>
      cases v with
      | false => exact .inl ⟨rest, .inr ⟨b, rfl⟩, step_of_done (fetch_edge hi)⟩
      | true =>
        refine .inr (.inr (.inr ⟨b, rest, rfl, ?_⟩))
        by_cases hl : s.buf.length < 8
        · exact .inl ⟨hl, step_of_done ((fetch_byte hi).trans (receive_short hl))⟩
        · obtain ⟨w, hw⟩ := Frame.ofBytes_long (b := s.buf ++ [b]) (by simp; omega)
          cases hv : w.valid with
          | false => exact .inr (.inr ⟨w, hw, hv, step_of_done ((fetch_byte hi).trans (receive_invalid hw hv))⟩)
          | true => exact .inr (.inl ⟨w, hw, hv, step_of_run ((fetch_byte hi).trans (receive_valid hw hv))⟩)
  · exact .inr (.inr (.inl ⟨r, rest, rfl, step_request_onlyAnswers hi⟩))

/-- A run of any machine takes its first step. -/
theorem run_succ_of_step (M : Host.Core) (k : Nat) (s t : M.State) (h : M.step s = .next t) :
    M.run (k + 1) s = M.run k t := by
  rw [Host.Core.run]
  simp only [h]

/-- A run of this machine takes its first step. -/
theorem run_of_step {k : Nat} {s t : State} (h : step s = .next t) :
    Host.Core.run Sys2Proof.core (k + 1) s = Host.Core.run Sys2Proof.core k t :=
  run_succ_of_step Sys2Proof.core k s t h

end Sys2Proof.Machine
end

