-- ==== Sys2Proof/Tests/Slice0.lean ====
section
/-! SUPPORT. Tests. Expected values come from 95_test_vectors.md (the part is named) or are written out by hand from
the spec's encodings; `test_witness_<Name>` shows values that meet the hypotheses of `Obligations.<Name>`. -/

namespace Sys2Proof.Tests

open Sys2Proof Sys2Proof.Machine Sys2Proof.Machine.Claims

/-! ### Helpers -/

/-- A 72-bit word as the list of its nine bytes, read as a frame. -/
def frameOf (w : BitVec 72) : Frame := Frame.ofBits w

/-- The nine bytes of a word. -/
def bytesOf (w : BitVec 72) : List Byte := (frameOf w).toBytes

/-- A state in the middle of a frame, with an Event on the ports. -/
def busy : State := ⟨[0xFF, 0x79], some (plainEvent 0x8D layoutZ 0x73), none, [plainEvent 0x8D layoutZ 0x73], []⟩

/-- The frame an instruction answers. -/
def answerOf (i : Instr) : Option (BitVec 72) := (nextOf (exec i busy)).bind State.encFrame

/-- The cause with which an instruction is refused. -/
def causeOf (i : Instr) : Option (BitVec 2) := (nextOf (exec i busy)).bind State.encErr

/-- The state that waits for the last byte of a word. -/
def waiting (w : BitVec 72) : State := { State.reset with buf := (bytesOf w).take 8, inbox := [rxEdge (frameOf w).cs] }

/-- The Event of the step that receives the last byte of a word. -/
def eventFrom (w : BitVec 72) : Option Event := (nextOf (step (waiting w))).bind State.ev

/-- The request that names an operation by its code. -/
def asks (code : Byte) (argc : BitVec 2) (arg0 : BitVec 16) (arg1 : BitVec 32) : State :=
  { State.reset with inbox := [.request ⟨code, ⟨argc, arg0, arg1⟩, false, 0⟩] }

/-- The request for a raw frame. -/
def asksRaw (code : Byte) (raw : BitVec 48) : State :=
  { State.reset with inbox := [.request ⟨code, ⟨0, 0, 0⟩, true, raw⟩] }

/-- Payload of six bytes. -/
abbrev pl (a b c d e f : Byte) : Payload := ⟨a, b, c, d, e, f⟩

/-! ### WellFormed: one ill-formed term for each check, beside the nearest well-formed one -/

theorem test_wf_count : (Instr.toggleAbc ⟨0, 1, 0⟩).wf = false ∧ (Instr.toggleAbc ⟨1, 1, 0⟩).wf = true ∧
    (Instr.queryAbc ⟨1, 1, 0⟩).wf = false ∧ (Instr.writeConfig ⟨1, 5, 0⟩).wf = false ∧
    (Instr.readConfig3 ⟨2, 5, 0⟩).wf = false := by decide

theorem test_wf_offset : (Instr.writeConfig ⟨2, 0x400, 0⟩).wf = false ∧ (Instr.writeConfig ⟨2, 0x3FF, 0⟩).wf = true ∧
    (Instr.readConfigGeneric ⟨1, 0x400, 0⟩).wf = false ∧ (Instr.readConfigGeneric ⟨1, 0x3FF, 0⟩).wf = true := by decide

theorem test_wf_offsetLow : (Instr.writeConfig2 ⟨2, 0x100, 0⟩).wf = false ∧ (Instr.writeConfig2 ⟨2, 0xFF, 0⟩).wf = true ∧
    (Instr.readConfig1 ⟨1, 0x100, 0⟩).wf = false := by decide

theorem test_wf_rawCode : (Instr.raw 0x84 0).wf = false ∧ (Instr.raw 0x83 0).wf = true := by decide

theorem test_wf_windowChecksum : (Instr.rxAbcStatus (pl 0 0 0 0 0 1) 0x83).wf = false ∧
    (Instr.rxAbcStatus (pl 0 0 0 0 0 1) 0x82).wf = true := by decide

theorem test_wf_unrecognisedCode : (Instr.rxUnrecognised 0x8D layoutZ 0x73).wf = false ∧
    (Instr.rxUnrecognised 0x86 layoutZ 0x7A).wf = true ∧ (Instr.rxUnrecognised 0x86 layoutZ 0x7B).wf = false := by decide

/-! ### Decoding: one word for each constructor (95_test_vectors.md 2.3, 2.6) -/

theorem test_decode_toggleAbc : decodeTx (frameOf 0xFF79A00000000000E7) = .ok (.toggleAbc ⟨1, 1, 0⟩) := by decide
theorem test_decode_queryAbc : decodeTx (frameOf 0xFF7D00000000000083) = .ok (.queryAbc ⟨0, 0, 0⟩) := by decide
theorem test_decode_setInterval :
    decodeTx (frameOf 0xFF7E0212340000003A) = .ok (.setInterval ⟨1, 0x1234, 0⟩) := by decide
theorem test_decode_writeConfig :
    decodeTx (frameOf 0xFF805000000001002F) = .ok (.writeConfig ⟨2, 0x50, 1⟩) := by decide
theorem test_decode_writeConfig1 :
    decodeTx (frameOf 0xFF811012345678005B) = .ok (.writeConfig1 ⟨2, 0x10, 0x12345678⟩) := by decide
theorem test_decode_writeConfig2 :
    decodeTx (frameOf 0xFF8205DEADBEEF0041) = .ok (.writeConfig2 ⟨2, 0x05, 0xDEADBEEF⟩) := by decide
theorem test_decode_writeConfig3 :
    decodeTx (frameOf 0xFF830000000001007C) = .ok (.writeConfig3 ⟨2, 0, 1⟩) := by decide
theorem test_decode_reset : decodeTx (frameOf 0xFF8D00000000000073) = .ok (.reset ⟨0, 0, 0⟩) := by decide
theorem test_decode_readConfig : decodeTx (frameOf 0xFF9000000000000070) = .ok (.readConfig ⟨1, 0, 0⟩) := by decide
theorem test_decode_readConfig1 : decodeTx (frameOf 0xFF917F0000000000F0) = .ok (.readConfig1 ⟨1, 0x7F, 0⟩) := by decide
theorem test_decode_readConfig2 : decodeTx (frameOf 0xFF9205000000000069) = .ok (.readConfig2 ⟨1, 0x05, 0⟩) := by decide
theorem test_decode_readConfig3 : decodeTx (frameOf 0xFF93FF00000000006E) = .ok (.readConfig3 ⟨1, 0xFF, 0⟩) := by decide
theorem test_decode_queryFwVersion :
    decodeTx (frameOf 0xFFA000000000000060) = .ok (.queryFwVersion ⟨0, 0, 0⟩) := by decide
theorem test_decode_raw :
    decodeTx (frameOf 0xFF8D0102030405065E) = .ok (.raw 0x8D 0x010203040506) ∧
    decodeTx (frameOf 0xFF840000000000007C) = .error .badCode := by decide
theorem test_decode_writeConfigGeneric :
    decodeRequest ⟨0x80, ⟨2, 0x205, 7⟩, false, 0⟩ = .ok (.writeConfigGeneric ⟨2, 0x205, 7⟩) ∧
    decodeRequest ⟨0x80, ⟨2, 0xFF, 7⟩, false, 0⟩ = .ok (.writeConfig ⟨2, 0xFF, 7⟩) := by decide
theorem test_decode_readConfigGeneric :
    decodeRequest ⟨0x90, ⟨1, 0x100, 0⟩, false, 0⟩ = .ok (.readConfigGeneric ⟨1, 0x100, 0⟩) := by decide
theorem test_decode_rxAbcStatus :
    decodeRx (bytesOf 0xFF7D00000000000182) = .ok (.rxAbcStatus (pl 0 0 0 0 0 1) 0x82) := by decide
theorem test_decode_rxFwVersion :
    decodeRx (bytesOf 0xFFA030343433000095) = .ok (.rxFwVersion (pl 0x30 0x34 0x34 0x33 0 0) 0x95) := by decide
theorem test_decode_rxToggleAbc :
    decodeRx (bytesOf 0xFF79A00000000000E7) = .ok (.rxToggleAbc (pl 0xA0 0 0 0 0 0) 0xE7) := by decide
theorem test_decode_rxSetInterval :
    decodeRx (bytesOf 0xFF7E0212340000003A) = .ok (.rxSetInterval (pl 2 0x12 0x34 0 0 0) 0x3A) := by decide
theorem test_decode_rxWriteConfig :
    decodeRx (bytesOf 0xFF805000000001002F) = .ok (.rxWriteConfig (pl 0x50 0 0 0 1 0) 0x2F) := by decide
theorem test_decode_rxWriteConfig1 :
    decodeRx (bytesOf 0xFF810000000100007E) = .ok (.rxWriteConfig1 (pl 0 0 0 1 0 0) 0x7E) := by decide
theorem test_decode_rxWriteConfig2 :
    decodeRx (bytesOf 0xFF8205DEADBEEF0041) = .ok (.rxWriteConfig2 (pl 5 0xDE 0xAD 0xBE 0xEF 0) 0x41) := by decide
theorem test_decode_rxWriteConfig3 :
    decodeRx (bytesOf 0xFF83FFFFFFFFFF0082) = .ok (.rxWriteConfig3 (pl 0xFF 0xFF 0xFF 0xFF 0xFF 0) 0x82) := by decide
theorem test_decode_rxReset :
    decodeRx (bytesOf 0xFF8D00000000000073) = .ok (.rxReset (pl 0 0 0 0 0 0) 0x73) := by decide
theorem test_decode_rxReadConfig :
    decodeRx (bytesOf 0xFF9000000000000070) = .ok (.rxReadConfig (pl 0 0 0 0 0 0) 0x70) := by decide
theorem test_decode_rxReadConfig1 :
    decodeRx (bytesOf 0xFF91FF000000000070) = .ok (.rxReadConfig1 (pl 0xFF 0 0 0 0 0) 0x70) := by decide
theorem test_decode_rxReadConfig2 :
    decodeRx (bytesOf 0xFF9205000000000069) = .ok (.rxReadConfig2 (pl 5 0 0 0 0 0) 0x69) := by decide
theorem test_decode_rxReadConfig3 :
    decodeRx (bytesOf 0xFF93FF00000000006E) = .ok (.rxReadConfig3 (pl 0xFF 0 0 0 0 0) 0x6E) := by decide
theorem test_decode_rxUnrecognised :
    decodeRx (bytesOf 0xFF86026047000000D1) = .ok (.rxUnrecognised 0x86 (pl 2 0x60 0x47 0 0 0) 0xD1) ∧
    decodeRx (bytesOf 0xFF0000000000000000) = .ok (.rxUnrecognised 0 layoutZ 0) := by decide

/-- 2.5: windows that are not valid, by reason. -/
theorem test_decode_invalid :
    decodeRx (bytesOf 0xFF7D00000000000183) = .error .badChecksum ∧
    decodeRx (bytesOf 0xFE7D00000000000182) = .error .badHeader ∧
    decodeRx (bytesOf 0xFFFFFFFFFFFFFFFFFF) = .error .badChecksum ∧
    decodeRx ((bytesOf 0xFF7D00000000000182).take 8) = .error .incomplete := by decide

/-- The opcode table's own match words, the checksum byte zero where the table leaves it open. Which of the rows that a
word fits is named is the model's choice (notes/assumptions/10.md). -/
theorem test_decode_tableMatches :
    decodeTableWord 72 0xFF7900000000000000 = some (.toggleAbc ⟨1, 0, 0⟩) ∧
    decodeTableWord 72 0xFF8300000000000000 = some (.writeConfig3 ⟨2, 0, 0⟩) ∧
    decodeTableWord 72 0xFF9100000000000000 = some (.readConfig1 ⟨1, 0, 0⟩) ∧
    decodeTableWord 72 0xFF7D00000000000000 = some (.rxAbcStatus layoutZ 0x83) ∧
    decodeTableWord 72 0xFE7D00000000000000 = none ∧ decodeTableWord 64 0xFF7D000000000000 = none := by decide

/-! ### Shared functions (2.1, 2.2) -/

theorem test_checksum :
    checksum [0, 0, 0, 0, 0, 0, 0] = 0 ∧ checksum [1, 0, 0, 0, 0, 0, 0] = 0xFF ∧
    checksum [0x80, 0x80, 0, 0, 0, 0, 0] = 0 ∧ checksum [0xFF, 0xFF, 0xFF, 0xFF, 0xFF, 0xFF, 0xFF] = 0x07 ∧
    checksum [0x12, 0x34, 0x56, 0x78, 0x9A, 0xBC, 0xDE] = 0xB8 := by decide

theorem test_resolveFamily :
    resolveFamily 0x80 0x0FF = some (0x80, 0xFF) ∧ resolveFamily 0x80 0x100 = some (0x81, 0x00) ∧
    resolveFamily 0x80 0x3FF = some (0x83, 0xFF) ∧ resolveFamily 0x90 0x205 = some (0x92, 0x05) ∧
    resolveFamily 0x90 0x400 = none := by decide

/-- Exactly 13 bytes are codes (R70). -/
theorem test_codes_count : codes.length = 13 ∧ codes.Nodup := by decide

/-! ### Encoder operations (2.3, 2.4) -/

theorem test_toggleAbc_answers : answerOf (.toggleAbc ⟨1, 0xFFFF, 9⟩) = some 0xFF79A00000000000E7 ∧
    answerOf (.toggleAbc ⟨1, 0, 9⟩) = some 0xFF7900000000000087 := by decide
theorem test_toggleAbc_refuses : causeOf (.toggleAbc ⟨0, 1, 0⟩) = some 2 := by decide
theorem test_queryAbc_answers : answerOf (.queryAbc ⟨0, 1, 0⟩) = some 0xFF7D00000000000083 := by decide
theorem test_queryAbc_refuses : causeOf (.queryAbc ⟨1, 1, 0⟩) = some 2 := by decide
theorem test_setInterval_answers : answerOf (.setInterval ⟨1, 0x003C, 0⟩) = some 0xFF7E02003C00000044 ∧
    answerOf (.setInterval ⟨1, 0xFFFF, 0⟩) = some 0xFF7E02FFFF00000082 := by decide
theorem test_writeConfig_answers :
    answerOf (.writeConfig ⟨2, 0x205, 0xDEADBEEF⟩) = some 0xFF8205DEADBEEF0041 ∧
    answerOf (.writeConfig ⟨2, 0x3FF, 0xFFFFFFFF⟩) = some 0xFF83FFFFFFFFFF0082 := by decide
theorem test_writeConfig_refuses : causeOf (.writeConfig ⟨2, 0x400, 0⟩) = some 3 ∧
    causeOf (.writeConfig ⟨1, 2000, 0⟩) = some 2 := by decide
theorem test_writeConfig1_answers :
    answerOf (.writeConfig1 ⟨2, 0x10, 0x12345678⟩) = some 0xFF811012345678005B ∧
    answerOf (.writeConfig1 ⟨2, 0xFF, 0⟩) = some 0xFF81FF000000000080 := by decide
theorem test_writeConfig2_answers :
    answerOf (.writeConfig2 ⟨2, 0x05, 0xDEADBEEF⟩) = some 0xFF8205DEADBEEF0041 := by decide
theorem test_writeConfig2_refuses : causeOf (.writeConfig2 ⟨2, 0x100, 0⟩) = some 3 := by decide
theorem test_writeConfig3_answers : answerOf (.writeConfig3 ⟨2, 0, 1⟩) = some 0xFF830000000001007C := by decide
theorem test_reset_answers : answerOf (.reset ⟨0, 0, 0⟩) = some 0xFF8D00000000000073 ∧
    (nextOf (exec (.reset ⟨0, 0, 0⟩) busy)).map State.buf = some [0xFF, 0x79] := by decide
theorem test_readConfig_answers : answerOf (.readConfig ⟨1, 0x1FF, 0⟩) = some 0xFF91FF000000000070 ∧
    answerOf (.readConfig ⟨1, 0x300, 0⟩) = some 0xFF930000000000006D := by decide
theorem test_readConfig_refuses : causeOf (.readConfig ⟨1, 0xFFFF, 0⟩) = some 3 ∧
    causeOf (.readConfig ⟨2, 5, 0⟩) = some 2 := by decide
theorem test_readConfig1_answers : answerOf (.readConfig1 ⟨1, 0x7F, 0⟩) = some 0xFF917F0000000000F0 := by decide
theorem test_readConfig1_refuses : causeOf (.readConfig1 ⟨1, 0x100, 0⟩) = some 3 := by decide
theorem test_readConfig2_answers : answerOf (.readConfig2 ⟨1, 0x05, 0⟩) = some 0xFF9205000000000069 := by decide
theorem test_readConfig3_answers : answerOf (.readConfig3 ⟨1, 0xFF, 0⟩) = some 0xFF93FF00000000006E := by decide
theorem test_queryFwVersion_answers : answerOf (.queryFwVersion ⟨0, 0, 0⟩) = some 0xFFA000000000000060 := by decide
theorem test_raw_answers : answerOf (.raw 0x8D 0x010203040506) = some 0xFF8D0102030405065E ∧
    answerOf (.raw 0x80 0x800000000000) = some 0xFF8080000000000000 := by decide
theorem test_raw_refuses : causeOf (.raw 0x84 0) = some 1 ∧ causeOf (.raw 0x01 0) = some 1 := by decide
theorem test_writeConfigGeneric_answers :
    answerOf (.writeConfigGeneric ⟨2, 0x100, 0x00000100⟩) = some 0xFF810000000100007E := by decide
theorem test_readConfigGeneric_answers :
    answerOf (.readConfigGeneric ⟨1, 0x3FF, 0⟩) = some 0xFF93FF00000000006E := by decide

/-- 2.4, priority: a code outside the set is reported before the count, and a step reports it too. -/
theorem test_badCode_first : ((nextOf (step (asks 0x86 3 2000 0))).bind State.encErr) = some 1 ∧
    ((nextOf (step (asks 0x80 1 2000 0))).bind State.encErr) = some 2 := by decide

/-! ### Decoder cases (2.6, Program 4) -/

/-- 2.6: the four rows of code 0x7D, for the indexes they name. -/
theorem test_rxAbcStatus_index :
    (eventOf 5 (frameOf 0xFF7D00000000000182)).abc = some true ∧ (eventOf 4 (frameOf 0xFF7D00000000000182)).abc = some false ∧
    (eventOf 5 (frameOf 0xFF7D01000000000082)).abc = some false ∧
    (eventOf 0 (frameOf 0xFF7D01000000000082)).abc = some true := by decide
/-- 2.6: no byte set, so false for any index. -/
theorem test_rxAbcStatus_false : ∀ idx : Fin 6, (eventOf idx (frameOf 0xFF7D00000000000083)).abc = some false := by decide
theorem test_rxFwVersion_version :
    eventFrom 0xFFA030343433000095 =
      some ⟨0xA0, pl 0x30 0x34 0x34 0x33 0 0, 0x95, none, some ⟨0x30, 0x34, 0x34, 0x33⟩, none⟩ ∧
    ((nextOf (step (waiting 0xFFA030343433000095))).bind State.evVer) = some 0x30343433 := by decide
theorem test_rxFwVersion_notAscii :
    eventFrom 0xFFA030343480000048 =
      some ⟨0xA0, pl 0x30 0x34 0x34 0x80 0 0, 0x48, none, none, some .versionNotAscii⟩ ∧
    (eventFrom 0xFFA030343433FF8016).bind Event.version = some ⟨0x30, 0x34, 0x34, 0x33⟩ := by decide
theorem test_rxToggleAbc_event :
    eventFrom 0xFF79A00000000000E7 = some (plainEvent 0x79 (pl 0xA0 0 0 0 0 0) 0xE7) := by decide
theorem test_rxSetInterval_event :
    eventFrom 0xFF7E0212340000003A = some (plainEvent 0x7E (pl 2 0x12 0x34 0 0 0) 0x3A) := by decide
theorem test_rxWriteConfig_event :
    eventFrom 0xFF80FFFFFFFFFFFF86 = some (plainEvent 0x80 (pl 0xFF 0xFF 0xFF 0xFF 0xFF 0xFF) 0x86) := by decide
theorem test_rxWriteConfig1_event :
    eventFrom 0xFF810000000100007E = some (plainEvent 0x81 (pl 0 0 0 1 0 0) 0x7E) := by decide
theorem test_rxWriteConfig2_event :
    eventFrom 0xFF8205DEADBEEF0041 = some (plainEvent 0x82 (pl 5 0xDE 0xAD 0xBE 0xEF 0) 0x41) := by decide
theorem test_rxWriteConfig3_event :
    eventFrom 0xFF83FFFFFFFFFF0082 = some (plainEvent 0x83 (pl 0xFF 0xFF 0xFF 0xFF 0xFF 0) 0x82) := by decide
theorem test_rxReset_event :
    eventFrom 0xFF8D00000000000073 = some (plainEvent 0x8D (pl 0 0 0 0 0 0) 0x73) := by decide
theorem test_rxReadConfig_event :
    eventFrom 0xFF9000000000000070 = some (plainEvent 0x90 (pl 0 0 0 0 0 0) 0x70) := by decide
theorem test_rxReadConfig1_event :
    eventFrom 0xFF91FF000000000070 = some (plainEvent 0x91 (pl 0xFF 0 0 0 0 0) 0x70) := by decide
theorem test_rxReadConfig2_event :
    eventFrom 0xFF9205000000000069 = some (plainEvent 0x92 (pl 5 0 0 0 0 0) 0x69) := by decide
theorem test_rxReadConfig3_event :
    eventFrom 0xFF93FF00000000006E = some (plainEvent 0x93 (pl 0xFF 0 0 0 0 0) 0x6E) := by decide
theorem test_rxUnrecognised_event :
    eventFrom 0xFF86026047000000D1 =
      some ⟨0x86, pl 2 0x60 0x47 0 0 0, 0xD1, none, none, some .unrecognisedCode⟩ ∧
    ((nextOf (step (waiting 0xFF86026047000000D1))).bind State.evErr) = some 1 := by decide
/-- Program 4, step 2: the false-positive window of 70_reset_and_hazards.md R168 is accepted. -/
theorem test_rxUnrecognised_falsePositive :
    eventFrom 0xFF84FF7D0000000000 =
      some ⟨0x84, pl 0xFF 0x7D 0 0 0 0, 0, none, none, some .unrecognisedCode⟩ := by decide

/-! ### The byte step and the port views (2.7, Program 3) -/

/-- 2.7: an invalid window loses its first byte only. -/
theorem test_slide : (nextOf (step (waiting 0xFF79A00000000000E8))).map State.buf =
    some [0x79, 0xA0, 0, 0, 0, 0, 0, 0xE8] := by decide
/-- 2.7: the eighth byte is only kept. -/
theorem test_fill : (nextOf (step { State.reset with buf := [0xFF, 0x79, 0xA0, 0, 0, 0, 0], inbox := [rxEdge 0] })).map
    State.buf = some [0xFF, 0x79, 0xA0, 0, 0, 0, 0, 0] := by decide
/-- Program 3, step 4: the bytes of an unfinished frame are lost on reset. -/
theorem test_reset_midFrame :
    (nextOf (step { busy with inbox := [.edge true true 0] })).map State.buf = some [] := by decide
/-- Program 2's stream in the middle of its resync, as one `feed`. -/
theorem test_feed_resync :
    feed 5 [] [0, 0, 0, 0xE7, 0, 0xFF, 0x7D, 0, 0, 0, 0, 0, 1, 0x82] =
      ([], [⟨0x7D, pl 0 0 0 0 0 1, 0x82, some true, none, none⟩]) := by decide
/-- Program 4: a false positive swallows the first copy of a frame; the second copy is decoded. -/
theorem test_feed_falsePositive :
    feed 5 [] ([0xFF, 0x84] ++ bytesOf 0xFF7D00000000000182 ++ bytesOf 0xFF7D00000000000182) =
      ([], [⟨0x84, pl 0xFF 0x7D 0 0 0 0, 0, none, none, some .unrecognisedCode⟩,
        ⟨0x7D, pl 0 0 0 0 0 1, 0x82, some true, none, none⟩]) := by decide
/-- 10_state.md R13: the register view of a partly filled buffer. -/
theorem test_views : busy.cnt = 2 ∧ busy.win 1 = some 0x79 ∧ busy.win 2 = none ∧ busy.evValid = true ∧
    busy.evErr = some 0 ∧ busy.encOk = none := by decide
/-- The host's placement: the word of QUERY_ABC, and the word of an RX row, each the first to run after reset. -/
theorem test_withFetchWord :
    ((nextOf (step (State.reset.withFetchWord 72 0xFF7D00000000000083))).bind State.encFrame) =
      some 0xFF7D00000000000083 ∧
    ((nextOf (step (State.reset.withFetchWord 72 0xFFA030343433000000))).bind State.evCs) = some 0x95 := by decide

/-! ### Witnesses of the hypotheses, clause by clause, at the ends of their ranges -/

theorem test_witness_ToggleAbcAnswers :
    (Args.mk 1 0xFFFF 0).argc = 1 ∧ (Args.mk 1 0xFFFF 0).arg0 ≠ 0 ∧ (Args.mk 1 1 0).arg0 ≠ 0 ∧ (Args.mk 1 0 0).arg0 = 0 ∧
    (Args.mk 0 0 0).argc ≠ 1 ∧ (Args.mk 2 0 0).argc ≠ 1 := by decide

theorem test_witness_ConstantCommandsAnswer :
    (Args.mk 0 5 5).argc = 0 ∧ (Args.mk 1 0 0).argc ≠ 0 ∧ (Args.mk 3 0 0).argc ≠ 0 := by decide

theorem test_witness_SetIntervalAnswers :
    (Args.mk 1 0xFFFF 0).argc = 1 ∧ (Args.mk 0 0 0).argc ≠ 1 ∧ (Args.mk 2 0 0).argc ≠ 1 := by decide

theorem test_witness_GenericConfigCommandsAnswer :
    (Args.mk 2 0 0).argc = 2 ∧ (Args.mk 2 0 0).arg0.toNat ≤ 1023 ∧ (Args.mk 2 1023 0).arg0.toNat ≤ 1023 ∧
    (Args.mk 1 0 0).argc ≠ 2 ∧ 1023 < (Args.mk 2 1024 0).arg0.toNat ∧ (Args.mk 1 1023 0).argc = 1 ∧
    (Args.mk 2 0 0).argc ≠ 1 := by decide

theorem test_witness_DirectWritesAnswer :
    (Args.mk 2 255 0).argc = 2 ∧ (Args.mk 2 255 0).arg0.toNat ≤ 255 ∧ (Args.mk 3 0 0).argc ≠ 2 ∧
    255 < (Args.mk 2 256 0).arg0.toNat := by decide

theorem test_witness_DirectReadsAnswer :
    (Args.mk 1 255 0).argc = 1 ∧ (Args.mk 1 255 0).arg0.toNat ≤ 255 ∧ (Args.mk 0 0 0).argc ≠ 1 ∧
    255 < (Args.mk 1 256 0).arg0.toNat := by decide

theorem test_witness_RawOverrideAnswers :
    isCode 0x79 = true ∧ isCode 0xA0 = true ∧ isCode 0x78 = false ∧ isCode 0x84 = false ∧ isCode 0xA1 = false := by decide

theorem test_witness_FwVersionDelivers :
    (∀ b ∈ (pl 0x7F 0x7F 0x7F 0x7F 0xFF 0xFF).toBytes.take 4, b.toNat ≤ 0x7F) ∧
    ¬ ((pl 0 0 0 0x80 0 0).p3.toNat ≤ 0x7F) ∧ ¬ ((pl 0x80 0 0 0 0 0).p0.toNat ≤ 0x7F) := by decide

theorem test_witness_UnrecognisedDelivers : isCode 0 = false ∧ isCode 0x7C = false ∧ isCode 0xFF = false := by decide

theorem test_witness_DecoderCasesAreEventOf :
    (Instr.rxFwVersion (pl 0x30 0xB4 0x34 0x33 0 0) 0x15).direction = .rx ∧
    (Instr.rxFwVersion (pl 0x30 0xB4 0x34 0x33 0 0) 0x15).wf = true := by decide

/-- A window that completes, here the non-ASCII version; windows of the other kinds are valid as well. -/
theorem test_witness_EventFieldsFollowTheCode :
    (waiting 0xFFA030343480000048).inbox = rxEdge 0x48 :: [] ∧
    (frameOf 0xFFA030343480000048).toBytes = (waiting 0xFFA030343480000048).buf ++ [0x48] ∧
    (frameOf 0xFFA030343480000048).valid = true ∧ (frameOf 0xFF7D00000000000182).valid = true ∧
    (frameOf 0xFFA07F7F7F7F000064).valid = true ∧ (frameOf 0xFF840000000000007C).valid = true := by decide

theorem test_witness_EncoderAndDecoderShareNoState :
    (Instr.raw 0x84 0).direction = .tx ∧ (nextOf (exec (.raw 0x84 0) busy)).isSome = true ∧
    (Instr.rxReset layoutZ 0x73).direction = .rx ∧ (nextOf (exec (.rxReset layoutZ 0x73) busy)).isSome = true ∧
    (nextOf (step (asks 0x79 1 1 0))).isSome = true ∧
    (nextOf (step { busy with inbox := [.edge true false 0] })).isSome = true := by decide

theorem test_witness_StepRunsDecodedInstruction :
    (asks 0x79 1 1 0).inbox = .request ⟨0x79, ⟨1, 1, 0⟩, false, 0⟩ :: [] ∧
    decodeRequest ⟨0x79, ⟨1, 1, 0⟩, false, 0⟩ = .ok (.toggleAbc ⟨1, 1, 0⟩) ∧
    decodeRequest ⟨0x86, ⟨0, 0, 0⟩, false, 0⟩ = .error .badCode ∧
    decodeRx ((waiting 0xFF8D00000000000073).buf ++ [0x73]) = .ok (.rxReset layoutZ 0x73) := by decide

theorem test_witness_PlacedInstructionRuns :
    (Instr.writeConfig ⟨2, 255, 0⟩).direction = .tx ∧ (Args.mk 2 255 0).arg0.toNat ≤ 255 ∧
    255 < (Args.mk 2 256 0).arg0.toNat ∧ (Instr.rxReset layoutZ 0x73).direction = .rx ∧
    (Instr.rxReset layoutZ 0x73).wf = true := by decide

theorem test_witness_ByteStepFillsAcceptsOrSlides :
    (State.mk (List.replicate 7 0xFF) none none [] [rxEdge 1]).buf.length < 8 ∧
    (frameOf 0xFF8D00000000000073).toBytes = (waiting 0xFF8D00000000000073).buf ++ [0x73] ∧
    ((frameOf 0xFF8D00000000000073).hdr = 0xFF ∧
      checksum (frameOf 0xFF8D00000000000073).body = (frameOf 0xFF8D00000000000073).cs) ∧
    ¬ ((frameOf 0xFF8D00000000000074).hdr = 0xFF ∧
      checksum (frameOf 0xFF8D00000000000074).body = (frameOf 0xFF8D00000000000074).cs) := by decide

theorem test_witness_ResetWinsOverByte :
    ({ busy with inbox := [.edge true true 0xE7] } : State).inbox = .edge true true 0xE7 :: [] := by decide

/-- Two reset edges that differ in both other ports, then eight bytes. -/
theorem test_witness_ResetHeldIsResetOnce :
    [(true, (9 : Byte)), (false, 0xFF)] ≠ [] ∧ [1, 2, 3, 4, 5, 6, 7, (8 : Byte)].length ≤ 8 ∧
    ({ busy with inbox := .edge true true 9 :: .edge true false 0xFF :: [1, 2, 3, 4, 5, 6, 7, 8].map rxEdge } :
      State).inbox =
      ([(true, (9 : Byte)), (false, 0xFF)].map fun x => .edge true x.1 x.2) ++ [1, 2, 3, 4, 5, 6, 7, 8].map rxEdge := by
  decide

theorem test_witness_IdleEdgeChangesNothing :
    ({ busy with inbox := [.edge false false 7] } : State).inbox = .edge false false 7 :: [] ∧ busy.inbox = [] := by decide

theorem test_witness_BufferAccessesAreThree :
    (nextOf (step busy)).map State.buf = some busy.buf ∧
    (nextOf (step (waiting 0xFF8D00000000000073))).map State.buf = some [] := by decide

/-- A state that meets the invariant with a window about to complete, and its next state. -/
theorem test_witness_StepKeepsInvariant :
    (waiting 0xFF8D00000000000073).Inv ∧ (nextOf (step (waiting 0xFF8D00000000000073))).isSome = true := by
  refine ⟨⟨by decide, ?_, ?_, ?_⟩, by decide⟩
  · intro e h
    cases h
  · intro e h
    cases h
  · intro r h
    cases h

theorem test_witness_ResetValues :
    ({ busy with inbox := [.edge true false 0] } : State).inbox = .edge true false 0 :: [] := by decide

/-- A full buffer, and the step that empties it. -/
theorem test_witness_RegistersHoldTheBuffer :
    (waiting 0xFF8D00000000000073).buf.length ≤ 8 ∧ (waiting 0xFF8D00000000000073).cnt = 8 ∧
    (nextOf (step (waiting 0xFF8D00000000000073))).map State.cnt = some 0 := by decide

theorem test_witness_EventsAreNineStepsApart :
    (waiting 0xFF8D00000000000073).buf.length ≤ 8 ∧
    (nextOf (step (waiting 0xFF8D00000000000073))).map State.sink = some [plainEvent 0x8D layoutZ 0x73] ∧
    (List.replicate 8 (0xFF : Byte)).length ≤ 8 := by decide

theorem test_witness_EncoderIsTheSpecAlgorithm :
    (asks 0x90 1 0x400 0).inbox = .request ⟨0x90, ⟨1, 0x400, 0⟩, false, 0⟩ :: [] ∧
    encodeSpec ⟨0x90, ⟨1, 0x400, 0⟩, false, 0⟩ = .refusal .range := by decide

/-- One request for each value of the cause port. -/
theorem test_witness_RefusalCauses :
    ((nextOf (step (asks 0x86 0 0 0))).bind State.encErr) = some 1 ∧
    ((nextOf (step (asks 0x80 1 0x400 0))).bind State.encErr) = some 2 ∧
    ((nextOf (step (asks 0x90 1 0x400 0))).bind State.encErr) = some 3 ∧
    ((nextOf (step (asks 0x82 2 0x100 0))).bind State.encErr) = some 3 ∧
    ((nextOf (step (asks 0x90 1 0x3FF 0))).bind State.encErr) = some 0 := by decide

theorem test_witness_AnsweredFramesAreValid :
    (nextOf (step (asks 0x8D 0 0 0))).map State.enc = some (some (.frame (frameOf 0xFF8D00000000000073))) := by decide

theorem test_witness_AcceptedOperationsAnswerTheirEncoding :
    (Instr.readConfig3 ⟨1, 255, 0⟩).direction = .tx ∧ (Instr.readConfig3 ⟨1, 255, 0⟩).wf = true ∧
    (Instr.readConfig3 ⟨1, 256, 0⟩).wf = false := by decide

theorem test_witness_EncoderIsPure :
    ({ busy with inbox := [.request ⟨0xA0, ⟨0, 0, 0⟩, false, 0⟩] } : State).inbox = (asks 0xA0 0 0 0).inbox ∧
    (nextOf (step (asks 0xA0 0 0 0))).isSome = true ∧
    (nextOf (step { busy with inbox := (asks 0xA0 0 0 0).inbox })).isSome = true := by decide

theorem test_witness_ResolveFamilyIsBijective :
    isGeneric 0x80 = true ∧ isGeneric 0x90 = true ∧ (0x3FF : BitVec 16).toNat ≤ 1023 ∧ 1023 < (0x400 : BitVec 16).toNat ∧
    (0x80 : Byte).toNat ≤ (0x83 : Byte).toNat ∧ (0x83 : Byte).toNat ≤ (0x80 : Byte).toNat + 3 := by decide

/-- Each of the ten forms answers a frame, at the ends of its range (2.3). -/
theorem test_witness_ReceiverReassemblesOffset :
    answerOf (.writeConfig ⟨2, 0x3FF, 0xFFFFFFFF⟩) = some 0xFF83FFFFFFFFFF0082 ∧
    answerOf (.writeConfigGeneric ⟨2, 0, 0⟩) = some 0xFF8000000000000080 ∧
    answerOf (.writeConfig1 ⟨2, 0xFF, 0⟩) = some 0xFF81FF000000000080 ∧
    answerOf (.writeConfig2 ⟨2, 0x05, 0xDEADBEEF⟩) = some 0xFF8205DEADBEEF0041 ∧
    answerOf (.writeConfig3 ⟨2, 0, 1⟩) = some 0xFF830000000001007C ∧
    answerOf (.readConfig ⟨1, 0x205, 0⟩) = some 0xFF9205000000000069 ∧
    answerOf (.readConfigGeneric ⟨1, 0x3FF, 0⟩) = some 0xFF93FF00000000006E ∧
    answerOf (.readConfig1 ⟨1, 0x7F, 0⟩) = some 0xFF917F0000000000F0 ∧
    answerOf (.readConfig2 ⟨1, 0x05, 0⟩) = some 0xFF9205000000000069 ∧
    answerOf (.readConfig3 ⟨1, 0xFF, 0⟩) = some 0xFF93FF00000000006E := by decide

/-- 2.5: a valid frame, one byte of it changed, two bytes changed against each other; two orders of one sum. -/
theorem test_witness_ChecksumLaws :
    (frameOf 0xFF7D00000000000182).valid = true ∧
    (frameOf 0xFF7D00000000000282).toBytes.drop 1 = ((frameOf 0xFF7D00000000000182).toBytes.drop 1).set 6 2 ∧
    ((frameOf 0xFF7D00000000000182).toBytes.drop 1)[6]? ≠ some 2 ∧ (frameOf 0xFF7D00000000000282).valid = false ∧
    (frameOf 0xFF7D00000000000281).toBytes.drop 1 =
      (((frameOf 0xFF7D00000000000182).toBytes.drop 1).set 6 (1 + 1)).set 7 (0x82 - 1) ∧
    (frameOf 0xFF7D00000000000281).valid = true ∧
    [0x7D, (0 : Byte)].Perm [0, 0x7D] ∧ byteSum [0x80, 0x80] % 256 = byteSum [0] % 256 := by decide

theorem test_witness_CodesOutsideTheSet :
    isCode 0x86 = false ∧ (asks 0x86 0 0 0).inbox = .request ⟨0x86, ⟨0, 0, 0⟩, false, 0⟩ :: [] ∧
    (frameOf 0xFF840000000000007C).toBytes = (waiting 0xFF840000000000007C).buf ++ [0x7C] ∧
    isCode (frameOf 0xFF840000000000007C).code = false ∧ (frameOf 0xFF840000000000007C).valid = true := by decide

/-- An interval and a read answered without the override; two version windows that differ in the padding. -/
theorem test_witness_UnusedPayloadBytes :
    (nextOf (step (asks 0x7E 1 0xFFFF 0))).map State.enc = some (some (.frame (frameOf 0xFF7E02FFFF00000082))) ∧
    (nextOf (step (asks 0x93 1 0xFF 0))).map State.enc = some (some (.frame (frameOf 0xFF93FF00000000006E))) ∧
    (frameOf 0xFF7D00000000000083).code = 0x7D ∧ (frameOf 0xFFA030343433FF8016).code = 0xA0 := by decide

theorem test_witness_FragmentationInvariance :
    (bytesOf 0xFF79A00000000000E7).dropLast.length ≤ 8 ∧ (waiting 0xFF79A00000000000E7).buf.length ≤ 8 ∧
    (waiting 0xFF79A00000000000E7).inbox = [0xE7].map rxEdge := by decide

theorem test_witness_FeedTerminates : ([0xFF] ++ [(0x79 : Byte)]).length ≤ 2 := by decide

theorem test_witness_MachineRunIsFeed :
    (List.replicate 8 (0xFF : Byte)).length ≤ 8 ∧
    noReset [.edge false false 0, rxEdge 0xFF, .request ⟨0x79, ⟨1, 1, 0⟩, false, 0⟩] = true ∧
    rxBytes [.edge false false 0, rxEdge 0xFF, .request ⟨0x79, ⟨1, 1, 0⟩, false, 0⟩] = [0xFF] := by decide

/-- Scenario C of 1.4 with a byte after it: no valid window starts in the garbage byte. -/
theorem test_witness_ResyncRecoversFrame :
    (frameOf 0xFF79A00000000000E7).valid = true ∧
    (∀ i, i < [(0x00 : Byte)].length → ∀ w,
      Frame.ofBytes (([0x00] ++ (frameOf 0xFF79A00000000000E7).toBytes ++ [0xFF]).drop i) = some w →
        w.valid = false) := by
  refine ⟨by decide, ?_⟩
  intro i hi w hw
  obtain rfl : i = 0 := by simpa using hi
  obtain rfl := Option.some.inj hw
  decide

/-- One answered frame, from an empty buffer, for each clause: a code without a layout, the ABC status without and with
the override, and a version that is ASCII. -/
theorem test_witness_EncodeDecodeRoundTrip :
    (asks 0x8D 0 0 0).buf = [] ∧ (asksRaw 0x7D 0).buf = [] ∧
    (nextOf (step (asks 0x8D 0 0 0))).map State.enc = some (some (.frame (frameOf 0xFF8D00000000000073))) ∧
    (nextOf (step (asks 0x7D 0 0 0))).map State.enc = some (some (.frame (frameOf 0xFF7D00000000000083))) ∧
    (nextOf (step (asksRaw 0x7D 0x000000000001))).map State.enc =
      some (some (.frame (frameOf 0xFF7D00000000000182))) ∧
    (frameOf 0xFF7D00000000000182).code = 0x7D ∧
    (nextOf (step (asksRaw 0xA0 0x7F7F7F7F0000))).map State.enc =
      some (some (.frame (frameOf 0xFFA07F7F7F7F000064))) ∧
    (frameOf 0xFFA07F7F7F7F000064).code = 0xA0 ∧ ¬ NotAsciiVersion (frameOf 0xFFA07F7F7F7F000064) := by decide

/-- The non-ASCII clause: the last of the four characters at its boundary 0x80, and Scenario D's frame; 0x80 in the
padding is no such case. -/
theorem test_witness_EncodeDecodeRoundTrip_notAscii :
    (nextOf (step (asksRaw 0xA0 0x303434800000))).map State.enc =
      some (some (.frame (frameOf 0xFFA030343480000048))) ∧
    (nextOf (step (asksRaw 0xA0 0x30B434330000))).map State.enc =
      some (some (.frame (frameOf 0xFFA030B43433000015))) ∧
    NotAsciiVersion (frameOf 0xFFA030343480000048) ∧ NotAsciiVersion (frameOf 0xFFA030B43433000015) ∧
    ¬ NotAsciiVersion (frameOf 0xFFA030343433FF8016) := by decide

theorem test_witness_LeadingGarbageIsInvisible : (0x00 : Byte) ≠ 0xFF ∧ (0xFE : Byte) ≠ 0xFF := by decide

theorem test_witness_WindowDecodeEncode :
    (Instr.rxUnrecognised 0xFF (pl 0xFF 0xFF 0xFF 0xFF 0xFF 0xFF) 0x07).direction = .rx ∧
    (Instr.rxUnrecognised 0xFF (pl 0xFF 0xFF 0xFF 0xFF 0xFF 0xFF) 0x07).wf = true ∧
    decodeRx (bytesOf 0xFFFFFFFFFFFFFFFF07 ++ [1]) =
      .ok (.rxUnrecognised 0xFF (pl 0xFF 0xFF 0xFF 0xFF 0xFF 0xFF) 0x07) := by decide

/-- A pseudo-form at the last offset and a raw frame that fits a layout, each with its canonical command. -/
theorem test_witness_WireDecodeEncode :
    (Instr.writeConfigGeneric ⟨2, 1023, 1⟩).direction = .tx ∧ (Instr.writeConfigGeneric ⟨2, 1023, 1⟩).wf = true ∧
    (Instr.writeConfigGeneric ⟨2, 1023, 1⟩).canonical = .writeConfig3 ⟨2, 255, 1⟩ ∧
    (Instr.raw 0x90 0x050000000000).wf = true ∧
    (Instr.raw 0x90 0x050000000000).canonical = .readConfig ⟨1, 5, 0⟩ := by decide

theorem test_witness_RequestDecodeEncode :
    (Instr.readConfigGeneric ⟨1, 256, 0⟩).direction = .tx ∧ 255 < (Args.mk 1 256 0).arg0.toNat ∧
    encodeRequest (.readConfigGeneric ⟨1, 256, 0⟩) = some ⟨0x90, ⟨1, 256, 0⟩, false, 0⟩ := by decide

end Sys2Proof.Tests
end

/-! PROOF. The port vectors hold their bytes first byte most significant (00_scope.md R8): the byte fields of a payload's
vector, the payload's vector as the middle field of its frame's, and from these both round trips. -/

namespace Sys2Proof

/-- A byte field of a field is a byte field of the whole vector. -/
theorem extractByte_of_field {n : Nat} (v : BitVec n) {lo len k : Nat} (h : k + 8 ≤ len) :
    (v.extractLsb' lo len).extractLsb' k 8 = v.extractLsb' (lo + k) 8 := by
  ext j hj
  have inField : k + j < len := by omega
  simp [inField, Nat.add_assoc]

/-- `P[i]` stands in bits 47-8i to 40-8i of the payload's vector. -/
theorem Payload.toBits_byte (p : Payload) (i : Fin 6) : p.toBits.extractLsb' (40 - 8 * i.val) 8 = p.get i := by
  apply extractByte_eq
  rw [Payload.toBits_toNat]
  fin_cases i <;> simp only [Payload.get] <;> omega

theorem Payload.ofBits_toBits (p : Payload) : Payload.ofBits p.toBits = p := by
  have byte := p.toBits_byte
  exact (Payload.mk.injEq ..).mpr ⟨byte 0, byte 1, byte 2, byte 3, byte 4, byte 5⟩

theorem Frame.toBits_hdr (f : Frame) : f.toBits.extractLsb' 64 8 = f.hdr := by
  apply extractByte_eq
  rw [Frame.toBits_toNat]
  omega

theorem Frame.toBits_code (f : Frame) : f.toBits.extractLsb' 56 8 = f.code := by
  apply extractByte_eq
  rw [Frame.toBits_toNat]
  omega

theorem Frame.toBits_cs (f : Frame) : f.toBits.extractLsb' 0 8 = f.cs :=
  BitVec.extractLsb'_append_eq_right

/-- The payload's vector stands in bits 55:8 of its frame's. -/
theorem Frame.toBits_payload (f : Frame) : f.toBits.extractLsb' 8 48 = f.payload.toBits := by
  apply BitVec.eq_of_toNat_eq
  rw [BitVec.extractLsb'_toNat, Nat.shiftRight_eq_div_pow, Frame.toBits_toNat, Payload.toBits_toNat]
  omega

/-- `P[i]` stands in bits 55-8i to 48-8i of the frame's vector. -/
theorem Frame.toBits_payloadByte (f : Frame) (i : Fin 6) :
    f.toBits.extractLsb' (48 - 8 * i.val) 8 = f.payload.get i := by
  have field := extractByte_of_field f.toBits (lo := 8) (len := 48) (k := 40 - 8 * i.val) (by omega)
  rw [Frame.toBits_payload, Payload.toBits_byte] at field
  rw [field, show 48 - 8 * i.val = 8 + (40 - 8 * i.val) by omega]

theorem Frame.ofBits_toBits (f : Frame) : Frame.ofBits f.toBits = f := by
  rw [Frame.ofBits, f.toBits_hdr, f.toBits_code, f.toBits_payload, f.payload.ofBits_toBits, f.toBits_cs]

/-- Settles O51: the round trips and the fields, from the lemmas on each vector. -/
theorem portVectorsHoldTheirBytes : Obligations.PortVectorsHoldTheirBytes :=
  ⟨Frame.ofBits_toBits, Payload.ofBits_toBits, fun f => ⟨f.toBits_hdr, f.toBits_code, f.toBits_cs⟩,
    Frame.toBits_payloadByte⟩

end Sys2Proof

/-! PROOF. What a step does, with its outputs (10_state.md R11, R17, R19): the answers of the encoder are well formed, a
valid window runs as `event_of` of it, and every step has one of three outcomes. -/

namespace Sys2Proof.Machine

open Sys2Proof.Machine.Claims

/-! ### The encoder's answers -/

/-- `resolve_family` gives a member code (40_command_codes.md R73). -/
theorem isCode_of_resolveFamily {g c lo : Byte} {off : BitVec 16} (h : resolveFamily g off = some (c, lo)) :
    isCode c = true := by
  have precondition : isGeneric g = true ∧ off.toNat ≤ 1023 := by
    unfold resolveFamily at h
    split at h
    next within => simpa using within
    next => cases h
  obtain ⟨generic, inRange⟩ := precondition
  rw [resolveFamily_inRange generic inRange, Option.some.injEq, Prod.mk.injEq] at h
  obtain ⟨rfl, -⟩ := h
  have block : off.toNat / 256 ≤ 3 := by omega
  generalize off.toNat / 256 = k at block
  rcases isGeneric_cases generic with rfl | rfl <;> interval_cases k <;> decide

/-- A result that is the given state with one well-formed answer of the encoder. -/
abbrev AnswersWellFormed (s : State) (r : Result) : Prop :=
  ∃ x : EncResult, x.Wf ∧ r = .next { s with enc := some x }

theorem refusal_answersWellFormed (c : EncErr) (s : State) :
    AnswersWellFormed s (.next (s.raiseInvalidArgument c)) := ⟨.refusal c, trivial, rfl⟩

theorem send_answersWellFormed {c : Byte} (h : isCode c = true) (p : Payload) (s : State) :
    AnswersWellFormed s (send c p s) := ⟨.frame (assemble c p), ⟨assemble_valid c p, h⟩, rfl⟩

theorem requireArgc_answersWellFormed {code : Byte} {a : Args} {s : State} {go : Result}
    (h : AnswersWellFormed s go) : AnswersWellFormed s (requireArgc code a s go) := by
  by_cases count : argcReq code = some a.argc
  · rwa [requireArgc_met count]
  · rw [requireArgc_missed count]
    exact refusal_answersWellFormed .argc s

theorem requireOffsetLow_answersWellFormed {a : Args} {s : State} {go : Byte → Result}
    (h : ∀ lo, AnswersWellFormed s (go lo)) : AnswersWellFormed s (requireOffsetLow a s go) := by
  by_cases low : a.arg0.toNat ≤ 255
  · rw [requireOffsetLow_inRange low]
    exact h _
  · rw [requireOffsetLow_outOfRange (Nat.not_le.mp low)]
    exact refusal_answersWellFormed .range s

theorem requireResolved_answersWellFormed {g : Byte} {a : Args} {s : State} {go : Byte → Byte → Result}
    (h : ∀ c lo, isCode c = true → AnswersWellFormed s (go c lo)) :
    AnswersWellFormed s (requireResolved g a s go) := by
  unfold requireResolved
  split
  next c lo resolved => exact h c lo (isCode_of_resolveFamily resolved)
  next => exact refusal_answersWellFormed .range s

theorem genericWrite_answersWellFormed (a : Args) (s : State) : AnswersWellFormed s (genericWrite a s) :=
  requireArgc_answersWellFormed (requireResolved_answersWellFormed fun _ _ member => send_answersWellFormed member _ s)

theorem genericRead_answersWellFormed (a : Args) (s : State) : AnswersWellFormed s (genericRead a s) :=
  requireArgc_answersWellFormed (requireResolved_answersWellFormed fun _ _ member => send_answersWellFormed member _ s)

theorem directWrite_answersWellFormed {code : Byte} (h : isCode code = true) (a : Args) (s : State) :
    AnswersWellFormed s (directWrite code a s) :=
  requireArgc_answersWellFormed (requireOffsetLow_answersWellFormed fun _ => send_answersWellFormed h _ s)

theorem directRead_answersWellFormed {code : Byte} (h : isCode code = true) (a : Args) (s : State) :
    AnswersWellFormed s (directRead code a s) :=
  requireArgc_answersWellFormed (requireOffsetLow_answersWellFormed fun _ => send_answersWellFormed h _ s)

theorem execRaw_answersWellFormed (code : Byte) (v : BitVec 48) (s : State) :
    AnswersWellFormed s (execRaw code v s) := by
  unfold execRaw
  split
  next member => exact send_answersWellFormed member _ s
  next => exact refusal_answersWellFormed .badCode s

/-- An encoder operation does nothing but give a well-formed answer (41_encoder.md R94). -/
theorem exec_tx_answersWellFormed (i : Instr) (s : State) (h : i.direction = .tx) :
    AnswersWellFormed s (exec i s) := by
  cases i <;> simp only [Instr.direction, reduceCtorEq] at h
  case toggleAbc | queryAbc | setInterval | reset | queryFwVersion =>
    exact requireArgc_answersWellFormed (send_answersWellFormed (by decide) _ s)
  case writeConfig a | writeConfigGeneric a => exact genericWrite_answersWellFormed a s
  case readConfig a | readConfigGeneric a => exact genericRead_answersWellFormed a s
  case writeConfig1 a | writeConfig2 a | writeConfig3 a => exact directWrite_answersWellFormed (by decide) a s
  case readConfig1 a | readConfig2 a | readConfig3 a => exact directRead_answersWellFormed (by decide) a s
  case raw code v => exact execRaw_answersWellFormed code v s

/-- A step that takes a request does nothing else but give a well-formed answer. -/
theorem step_request_answersWellFormed {s : State} {r : EncRequest} {rest : List Stimulus}
    (h : s.inbox = .request r :: rest) : AnswersWellFormed { s with inbox := rest } (step s) := by
  have fetched := fetch_request h
  unfold present at fetched
  cases decoded : decodeRequest r with
  | error e =>
    rw [decoded] at fetched
    rw [step_of_done fetched]
    exact refusal_answersWellFormed .badCode _
  | ok i =>
    rw [decoded] at fetched
    rw [step_of_run fetched]
    exact exec_tx_answersWellFormed i _ (decodeRequest_direction decoded)

/-! ### The decoder's Events -/

/-- The case of code 0xA0 tests its four characters one by one, `event_of` the OR of them (42_decoder.md R120). -/
theorem execRxFwVersion_delivers (hd : Byte) (p : Payload) (cs : Byte) (s : State) :
    execRxFwVersion p cs s = .next (delivered (eventOf Config.abcIdx ⟨hd, 0xA0, p, cs⟩) s) := by
  simp only [execRxFwVersion, versionOk_iff_or, eventOf]
  split <;> rfl

/-- The case of a window consumes it and delivers `event_of` of it (42_decoder.md R117, R124). -/
theorem exec_windowInstr (w : Frame) (s : State) :
    exec (windowInstr w) s = .next (delivered (eventOf Config.abcIdx w) s) := by
  cases member : isCode w.code with
  | false =>
    have not7D : w.code ≠ 0x7D := fun h => absurd (h ▸ member) (by decide)
    have notA0 : w.code ≠ 0xA0 := fun h => absurd (h ▸ member) (by decide)
    rw [windowInstr_unrecognised member, eventOf, if_neg not7D, if_neg notA0, if_pos (by simp [member])]
    rfl
  | true =>
    obtain ⟨hd, c, p, cs⟩ := w
    rcases isCode_cases member with rfl | rfl | rfl | rfl | rfl | rfl | rfl | rfl | rfl | rfl | rfl | rfl | version
    case inr => subst version; exact execRxFwVersion_delivers hd p cs s
    all_goals rfl

/-- `event_of` of a valid window is a well-formed Event. -/
theorem eventOf_wf {w : Frame} (h : w.valid = true) : (eventOf Config.abcIdx w).Wf := by
  have window : Frame.mk headerByte (eventOf Config.abcIdx w).code (eventOf Config.abcIdx w).raw
      (eventOf Config.abcIdx w).checksum = w := by
    rw [eventOf_code, eventOf_raw, eventOf_checksum, show headerByte = w.hdr from (w.valid_iff_fields.mp h).1.symm]
  rw [Event.Wf, window]
  exact ⟨h, rfl⟩

/-! ### The outcomes of a step -/

/-- A byte that completes a valid window delivers the window's Event (42_decoder.md R112, R116). -/
theorem step_of_validWindow {s : State} {b : Byte} {rest : List Stimulus} {w : Frame} (h : s.inbox = rxEdge b :: rest)
    (front : Frame.ofBytes (s.buf ++ [b]) = some w) (valid : w.valid = true) :
    step s = .next (delivered (eventOf Config.abcIdx w) { s with buf := s.buf ++ [b], inbox := rest }) := by
  rw [step_of_run ((fetch_byte h).trans (receive_valid front valid))]
  exact exec_windowInstr w _

/-- Every step is an edge without an Event, an edge that completes a valid window, or a request; it takes the head of
the inbox. The buffer of the first is at most eight bytes when it was so before. -/
theorem step_outcome (s : State) :
    (∃ l, (s.buf.length ≤ 8 → l.length ≤ 8) ∧
      step s = .next { s with buf := l, ev := none, inbox := s.inbox.tail }) ∨
    (∃ b w, Frame.ofBytes (s.buf ++ [b]) = some w ∧ w.valid = true ∧
      step s = .next (delivered (eventOf Config.abcIdx w) { s with buf := s.buf ++ [b], inbox := s.inbox.tail })) ∨
    (∃ r, s.inbox = .request r :: s.inbox.tail ∧ AnswersWellFormed { s with inbox := s.inbox.tail } (step s)) := by
  rcases step_cases s with ⟨rest, taken, next⟩ | ⟨v, b, rest, taken, next⟩ | ⟨r, rest, taken, -⟩ |
    ⟨b, rest, taken, ⟨short, next⟩ | ⟨w, front, valid, -⟩ | ⟨w, front, -, next⟩⟩
  · obtain rfl : s.inbox.tail = rest := by
      rcases taken with ⟨empty, rfl⟩ | ⟨b, edge⟩
      · rw [empty, List.tail_nil]
      · rw [edge, List.tail_cons]
    exact .inl ⟨s.buf, id, next⟩
  · rw [taken]
    exact .inl ⟨[], fun _ => by simp, next⟩
  · rw [taken]
    exact .inr (.inr ⟨r, rfl, step_request_answersWellFormed taken⟩)
  · rw [taken]
    exact .inl ⟨_, fun _ => by rw [List.length_append, List.length_singleton]; omega, next⟩
  · rw [taken]
    exact .inr (.inl ⟨b, w, front, valid, step_of_validWindow taken front valid⟩)
  · rw [taken]
    exact .inl ⟨_, fun bound => by simpa using bound, next⟩

end Sys2Proof.Machine

/-! PROOF. The invariant (10_state.md R11) holds after reset and is kept by each outcome of a step. -/

namespace Sys2Proof.Machine

open Sys2Proof.Machine.Claims

/-- An edge without an Event keeps the invariant when at most eight bytes are left. -/
theorem State.Inv.quietEdge {s : State} (inv : s.Inv) {l : List Byte} (h : l.length ≤ 8) (rest : List Stimulus) :
    ({ s with buf := l, ev := none, inbox := rest } : State).Inv :=
  ⟨h, inv.events, nofun, inv.answer⟩

/-- Delivering the Event of a valid window that ends with the byte just received keeps the invariant. -/
theorem State.Inv.windowEdge {s : State} (inv : s.Inv) {w : Frame} (valid : w.valid = true) (b : Byte)
    (rest : List Stimulus) :
    (delivered (eventOf Config.abcIdx w) { s with buf := s.buf ++ [b], inbox := rest }).Inv := by
  have atMostNine : (s.buf ++ [b]).length ≤ 9 := by simpa [Nat.lt_succ_iff] using inv.rest
  have consumed : (s.buf ++ [b]).drop 9 = [] := List.drop_eq_nil_of_le atMostNine
  refine ⟨?rest, ?events, ?presented, inv.answer⟩
  case rest => simp [delivered, consumed]
  case events =>
    intro e delivery
    rcases List.mem_append.mp delivery with before | now
    · exact inv.events e before
    · rw [List.mem_singleton.mp now]
      exact eventOf_wf valid
  case presented =>
    intro e presentation
    cases presentation
    exact ⟨List.getLast?_concat, consumed⟩

/-- A well-formed answer keeps the invariant. -/
theorem State.Inv.answered {s : State} (inv : s.Inv) {x : EncResult} (h : x.Wf) (rest : List Stimulus) :
    ({ s with enc := some x, inbox := rest } : State).Inv :=
  ⟨inv.rest, inv.events, inv.presented, fun _ now => Option.some.inj now ▸ h⟩

/-- Settles O25: each of the three outcomes of a step keeps the invariant. -/
theorem stepKeepsInvariant : Obligations.StepKeepsInvariant := by
  intro s t inv next
  rcases step_outcome s with ⟨l, bound, outcome⟩ | ⟨b, w, -, valid, outcome⟩ | ⟨r, -, x, wellFormed, outcome⟩ <;>
    rw [outcome] at next <;> cases next
  · exact inv.quietEdge (bound inv.rest) _
  · exact inv.windowEdge valid b _
  · exact inv.answered wellFormed _

/-- Settles O26: the buffer and the sink are empty, and both outputs absent. -/
theorem resetMeetsInvariant : Obligations.ResetMeetsInvariant where
  rest := Nat.zero_le 8
  events := nofun
  presented := nofun
  answer := nofun

end Sys2Proof.Machine

/-! PROOF. The Event of a valid window: which of its fields are present (10_state.md R17, 42_decoder.md R119 to R123). -/

namespace Sys2Proof.Machine

open Sys2Proof.Machine.Claims

theorem versionOk_iff_lt (p : Payload) :
    versionOk p = true ↔ p.p0.toNat < 128 ∧ p.p1.toNat < 128 ∧ p.p2.toNat < 128 ∧ p.p3.toNat < 128 := by
  simp [versionOk, isAscii, Nat.lt_succ_iff, and_assoc]

theorem versionOk_eq_false_iff (p : Payload) :
    versionOk p = false ↔ 128 ≤ p.p0.toNat ∨ 128 ≤ p.p1.toNat ∨ 128 ≤ p.p2.toNat ∨ 128 ≤ p.p3.toNat := by
  rw [← Bool.not_eq_true, versionOk_iff_lt]
  omega

/-- `abc` is present for code 0x7D (R119). -/
theorem eventOf_abc (idx : Fin 6) (w : Frame) :
    (eventOf idx w).abc = if w.code = 0x7D then some (abcStatus idx w.payload) else none := by
  unfold eventOf
  split_ifs <;> rfl

/-- `version` is present for code 0xA0 with four ASCII characters, and holds them (R120). -/
theorem eventOf_version (idx : Fin 6) (w : Frame) :
    (eventOf idx w).version = if w.code = 0xA0 ∧ versionOk w.payload = true then
      some ⟨w.payload.p0, w.payload.p1, w.payload.p2, w.payload.p3⟩ else none := by
  unfold eventOf
  simp only [versionOk_iff_or]
  split_ifs <;> simp_all

/-- `parse_error` is present for code 0xA0 without four ASCII characters and for a code that is no member
(R120, R122). -/
theorem eventOf_parseError (idx : Fin 6) (w : Frame) :
    (eventOf idx w).parseError = if w.code = 0xA0 ∧ versionOk w.payload = false then some .versionNotAscii
      else if isCode w.code = false then some .unrecognisedCode else none := by
  have member7D : isCode 0x7D = true := by decide
  have memberA0 : isCode 0xA0 = true := by decide
  unfold eventOf
  simp only [← Bool.not_eq_true, versionOk_iff_or]
  split_ifs <;> simp_all

theorem eventOf_abc_isSome (idx : Fin 6) (w : Frame) : (eventOf idx w).abc.isSome = true ↔ w.code = 0x7D := by
  rw [eventOf_abc, Option.isSome_ite]

theorem eventOf_version_isSome (idx : Fin 6) (w : Frame) :
    (eventOf idx w).version.isSome = true ↔ w.code = 0xA0 ∧ versionOk w.payload = true := by
  rw [eventOf_version, Option.isSome_ite]

/-- A version holds the four bytes as received. -/
theorem eventOf_version_eq {idx : Fin 6} {w : Frame} {v : Version} (h : (eventOf idx w).version = some v) :
    v = ⟨w.payload.p0, w.payload.p1, w.payload.p2, w.payload.p3⟩ := by
  rw [eventOf_version, Option.ite_none_right_eq_some] at h
  exact (Option.some.inj h.2).symm

theorem eventOf_notAscii_iff (idx : Fin 6) (w : Frame) :
    (eventOf idx w).parseError = some .versionNotAscii ↔ w.code = 0xA0 ∧ versionOk w.payload = false := by
  rw [eventOf_parseError]
  split_ifs with notAscii
  · exact iff_of_true rfl notAscii
  · exact iff_of_false (by decide) notAscii
  · exact iff_of_false (by decide) notAscii

theorem eventOf_unrecognised_iff (idx : Fin 6) (w : Frame) :
    (eventOf idx w).parseError = some .unrecognisedCode ↔ isCode w.code = false := by
  rw [eventOf_parseError]
  split_ifs with notAscii notMember
  · rw [notAscii.1]
    decide
  · exact iff_of_true rfl notMember
  · exact iff_of_false (by decide) notMember

/-- At most one of `abc`, `version`, `parse_error` is present (10_state.md R17). -/
theorem eventOf_atMostOneField (idx : Fin 6) (w : Frame) :
    (eventOf idx w).abc.toList.length + (eventOf idx w).version.toList.length +
      (eventOf idx w).parseError.toList.length ≤ 1 := by
  unfold eventOf
  split_ifs <;> simp

/-- The reason codes are 0, 1 and 2 (10_state.md R17). -/
theorem parseErrorCode_ne_three (e : Option ParseError) : parseErrorCode e ≠ 3 := by
  rcases e with _ | _ | _ <;> decide

/-- `ev_err` is never 3, in any state. -/
theorem State.evErr_ne_three (s : State) : s.evErr ≠ some 3 := by
  rw [State.evErr, Ne, Option.map_eq_some_iff]
  rintro ⟨e, -, code⟩
  exact parseErrorCode_ne_three _ code

/-- Settles O13: the step delivers `event_of` of the window, whose fields the lemmas above give one by one. -/
theorem eventFieldsFollowTheCode : Obligations.EventFieldsFollowTheCode := by
  intro s b rest w taken bytes window
  have front : Frame.ofBytes (s.buf ++ [b]) = some w := bytes ▸ Frame.ofBytes_toBytes_append w []
  refine ⟨_, eventOf Config.abcIdx w, step_of_validWindow taken front (w.valid_iff_fields.mpr window), rfl, rfl, ?_⟩
  rw [eventOf_code, eventOf_raw, eventOf_checksum, ← versionOk_iff_lt, ← versionOk_eq_false_iff]
  exact ⟨rfl, rfl, rfl, window.2.symm, eventOf_abc_isSome _ w, eventOf_version_isSome _ w,
    fun _ => eventOf_version_eq, eventOf_unrecognised_iff _ w, eventOf_notAscii_iff _ w, eventOf_atMostOneField _ w,
    State.evErr_ne_three _⟩

end Sys2Proof.Machine

/-! PROOF. The frame of operations and steps (10_state.md R19), and the edges that only empty the Event ports or the
buffer (10_state.md R22, R24). -/

namespace Sys2Proof.Machine

open Sys2Proof.Machine.Claims

/-- A step that takes a clock edge leaves the encoder's outputs. -/
theorem step_edge_frame {s t : State} {x v : Bool} {b : Byte} {rest : List Stimulus}
    (taken : s.inbox = .edge x v b :: rest) (next : step s = .next t) : t.enc = s.enc ∧ t.inbox = rest := by
  have tail : s.inbox.tail = rest := by rw [taken, List.tail_cons]
  rcases step_outcome s with ⟨l, -, outcome⟩ | ⟨c, w, -, -, outcome⟩ | ⟨r, request, -⟩
  case inr.inr =>
    rw [taken] at request
    cases request
  all_goals
    rw [outcome] at next
    cases next
    exact ⟨rfl, tail⟩

/-- Settles O14: an encoder operation only answers, a decoder case only delivers, and so does the step of each. -/
theorem encoderAndDecoderShareNoState : Obligations.EncoderAndDecoderShareNoState := by
  refine ⟨?operation, ?decoderCase, ?request, fun _ _ _ _ _ _ => step_edge_frame⟩
  case operation =>
    intro i s t tx next
    obtain ⟨x, answer⟩ := exec_tx_onlyAnswers i s tx
    rw [answer] at next
    cases next
    exact ⟨rfl, rfl, rfl, rfl⟩
  case decoderCase =>
    intro i s t rx next
    obtain ⟨e, delivery⟩ := exec_rx_delivers i s rx
    rw [delivery, deliver_next] at next
    cases next
    exact ⟨rfl, rfl, rfl, e, rfl, rfl⟩
  case request =>
    intro s t r rest taken next
    obtain ⟨x, answer⟩ := step_request_onlyAnswers taken
    rw [answer] at next
    cases next
    exact ⟨rfl, rfl, rfl, rfl⟩

/-- Settles O23: the fetch finds nothing to run. -/
theorem idleEdgeChangesNothing : Obligations.IdleEdgeChangesNothing := by
  intro s
  refine ⟨fun b rest taken => step_of_done (fetch_edge taken), fun empty => ?_⟩
  have nothing : fetch s = .done s.quiet := by rw [fetch, empty]
  exact step_of_done nothing

/-- An empty buffer and no Event on the ports are all that R22 asks for. -/
theorem afterReset_of_empty {t : State} (buf : t.buf = []) (ev : t.ev = none) : AfterReset t := by
  simp [AfterReset, State.cnt, State.win, State.evValid, State.evCode, State.evRaw, State.evCs, State.evAbcValid,
    State.evAbc, State.evVerValid, State.evVer, State.evErr, buf, ev]

/-- Settles O27: the state after reset and the state after a reset edge have an empty buffer and no Event. -/
theorem resetValues : Obligations.ResetValues :=
  ⟨afterReset_of_empty rfl rfl, fun _ _ _ _ taken =>
    ⟨_, step_of_done (fetch_edge taken), afterReset_of_empty rfl rfl, rfl, rfl⟩⟩

end Sys2Proof.Machine

/-! PROOF. The registers WIN and CNT hold the buffer (10_state.md R13, R15). -/

namespace Sys2Proof.Machine

open Sys2Proof.Machine.Claims

/-- The defined values among the first `n` places of a list are its first `n` elements. -/
theorem filterMap_finRange_getElem? {α : Type} (n : Nat) (l : List α) :
    (List.finRange n).filterMap (fun i => l[i.val]?) = l.take n := by
  induction n generalizing l with
  | zero => simp
  | succ n ih =>
    rw [List.finRange_succ, List.filterMap_cons, List.filterMap_map]
    cases l with
    | nil => simp
    | cons a l => simpa [Function.comp_def] using ih l

theorem State.cnt_toNat {s : State} (h : s.buf.length ≤ 8) : s.cnt.toNat = s.buf.length := by
  rw [State.cnt, BitVec.toNat_ofNat]
  omega

theorem State.win_eq_none_iff (s : State) (i : Fin 9) : s.win i = none ↔ s.buf.length ≤ i.val :=
  List.getElem?_eq_none_iff

theorem State.filterMap_win {s : State} (h : s.buf.length ≤ 8) : (List.finRange 9).filterMap s.win = s.buf := by
  have atMostNine : s.buf.length ≤ 9 := by omega
  exact (filterMap_finRange_getElem? 9 s.buf).trans (List.take_of_length_le atMostNine)

/-- Every step keeps at most eight bytes in the buffer (10_state.md R11). -/
theorem step_buf_length_le {s t : State} (h : s.buf.length ≤ 8) (next : step s = .next t) : t.buf.length ≤ 8 := by
  rcases step_outcome s with ⟨l, bound, outcome⟩ | ⟨b, w, -, -, outcome⟩ | ⟨r, -, x, -, outcome⟩ <;>
    rw [outcome] at next <;> cases next
  · exact bound h
  · rw [delivered, List.length_drop, List.length_append, List.length_singleton]
    omega
  · exact h

/-- Settles O28: CNT does not wrap at eight bytes, WIN is the buffer place by place, and a step keeps the bound. -/
theorem registersHoldTheBuffer : Obligations.RegistersHoldTheBuffer := by
  intro s atMostEight
  refine ⟨State.cnt_toNat atMostEight, fun i => ?_, (State.filterMap_win atMostEight).symm, fun t next => ?_⟩
  · rw [State.cnt_toNat atMostEight]
    exact s.win_eq_none_iff i
  · have kept := step_buf_length_le atMostEight next
    rw [State.cnt_toNat kept]
    exact ⟨rfl, kept⟩

end Sys2Proof.Machine

/-! PROOF. A byte that is not the header starts no valid window (10_state.md R21, 42_decoder.md R115). -/

namespace Sys2Proof.Machine

theorem hdr_of_ofBytes_cons {b : Byte} {l : List Byte} {w : Frame} (h : Frame.ofBytes (b :: l) = some w) :
    w.hdr = b := by
  have split := Frame.ofBytes_split h
  exact (List.cons.inj split).1.symm

/-- Settles O46: with eight more bytes the loop slides the byte out, with fewer it emits nothing either way. -/
theorem leadingGarbageIsInvisible : Obligations.LeadingGarbageIsInvisible := by
  intro idx b rest chunk notHeader
  rw [feed, feed, List.cons_append, List.length_cons]
  by_cases short : (rest ++ chunk).length < 8
  · rw [feedLoop_short _ _ (by rw [List.length_cons]; omega), feedLoop_short _ _ (by omega)]
  · obtain ⟨w, front⟩ := Frame.ofBytes_long (b := b :: (rest ++ chunk)) (by rw [List.length_cons]; omega)
    have invalid : w.valid = false := by
      rw [← Bool.not_eq_true, w.valid_iff_fields, hdr_of_ofBytes_cons front]
      exact fun h => notHeader h.1
    rw [feedLoop_invalid idx _ front invalid, List.drop_one, List.tail_cons]

end Sys2Proof.Machine

/-! PROOF. Requests name operations and windows name decoder cases (10_state.md R24, R26; 40_command_codes.md R71), so an
instruction placed is the one the next step runs. -/

namespace Sys2Proof

open Sys2Proof.Machine.Claims

theorem genericRow_low {a : Args} (h : a.arg0.toNat ≤ 255) (row pseudo : Args → Instr) :
    genericRow a row pseudo = row a := by
  simp [genericRow, Args.offsetLowOk, h]

theorem genericRow_high {a : Args} (h : 255 < a.arg0.toNat) (row pseudo : Args → Instr) :
    genericRow a row pseudo = pseudo a := by
  simp [genericRow, Args.offsetLowOk, Nat.not_le.mpr h]

/-- The ports of an operation that is the row of its request name that operation. -/
theorem decodeRequest_encodeRequest {i : Instr} (tx : i.direction = .tx) (row : RowOfRequest i) :
    ∃ r, encodeRequest i = some r ∧ decodeRequest r = .ok i := by
  cases i <;> simp only [Instr.direction, reduceCtorEq] at tx
  case writeConfig a => exact ⟨_, rfl, congrArg Except.ok (genericRow_low row _ _)⟩
  case readConfig a => exact ⟨_, rfl, congrArg Except.ok (genericRow_low row _ _)⟩
  case writeConfigGeneric a => exact ⟨_, rfl, congrArg Except.ok (genericRow_high row _ _)⟩
  case readConfigGeneric a => exact ⟨_, rfl, congrArg Except.ok (genericRow_high row _ _)⟩
  all_goals exact ⟨_, rfl, rfl⟩

theorem exists_decodeRequest_iff (r : EncRequest) :
    (∃ i, decodeRequest r = .ok i) ↔ isCode r.code = true ∨ r.rawEn = true := by
  obtain ⟨c, a, rawEn, v⟩ := r
  cases rawEn with
  | true => simp [decodeRequest_raw]
  | false =>
    cases member : isCode c with
    | false => simp [decodeRequest_notMember member]
    | true =>
      obtain ⟨i, decoded, -⟩ := decodeRequest_member (a := a) (v := v) member
      simp [decoded]

/-- Settles O50: each row of its request by itself, and naming by cases on the override and on membership. -/
theorem requestDecodeEncode : Obligations.RequestDecodeEncode :=
  ⟨fun _ => decodeRequest_encodeRequest, exists_decodeRequest_iff⟩

theorem encodeRequest_rx {i : Instr} (rx : i.direction = .rx) : encodeRequest i = none := by
  cases i <;> simp only [Instr.direction, reduceCtorEq] at rx <;> rfl

/-- The nine bytes of a well-formed decoder case are a valid window. -/
theorem encode_rx_valid {i : Instr} (rx : i.direction = .rx) (wf : i.wf = true) : (encode i).valid = true := by
  cases i <;> simp only [Instr.direction, reduceCtorEq] at rx
  case rxUnrecognised c p cs => exact Laws.EncodeValid.rxUnrecognised c p cs wf
  all_goals exact Laws.EncodeValid.window wf

/-- The window of a well-formed decoder case is classified as that case. -/
theorem windowInstr_encode {i : Instr} (rx : i.direction = .rx) (wf : i.wf = true) : windowInstr (encode i) = i := by
  cases i <;> simp only [Instr.direction, reduceCtorEq] at rx
  case rxUnrecognised c p cs =>
    obtain ⟨notMember, -⟩ := (Bool.and_eq_true _ _).mp wf
    exact windowInstr_unrecognised ((Bool.not_eq_true' _).mp notMember)
  all_goals rfl

end Sys2Proof

namespace Sys2Proof.Machine

open Sys2Proof.Machine.Claims

theorem placeInstr_of_request {i : Instr} {r : EncRequest} (h : encodeRequest i = some r) (s : State) :
    s.placeInstr i = { s with inbox := .request r :: s.inbox } := by
  rw [State.placeInstr, h]

theorem placeInstr_of_window {i : Instr} (h : encodeRequest i = none) (s : State) :
    s.placeInstr i =
      { s with buf := (encode i).toBytes.take 8, inbox := rxEdge (encode i).cs :: s.inbox } := by
  rw [State.placeInstr, h]

/-- The first eight bytes of a frame and its checksum byte are its nine bytes. -/
theorem take_eight_append_cs (w : Frame) : w.toBytes.take 8 ++ [w.cs] = w.toBytes := rfl

/-- Settles O18: the request placed decodes to the operation, and the window placed is valid and names the case. -/
theorem placedInstructionRuns : Obligations.PlacedInstructionRuns := by
  intro i s
  refine ⟨fun tx row => ?_, fun rx wf => ?_⟩
  · obtain ⟨r, ports, decoded⟩ := decodeRequest_encodeRequest tx row
    rw [placeInstr_of_request ports, step, fetch_request rfl, present, decoded]
  · have front : Frame.ofBytes ((encode i).toBytes.take 8 ++ [(encode i).cs]) = some (encode i) := rfl
    rw [placeInstr_of_window (encodeRequest_rx rx),
      step_of_run ((fetch_byte rfl).trans (receive_valid front (encode_rx_valid rx wf))), windowInstr_encode rx wf]
    exact congrArg (fun l => exec i { s with buf := l }) (take_eight_append_cs (encode i))

end Sys2Proof.Machine

/-! PROOF. A run without reset is one `feed` (20_memory.md R38; 42_decoder.md R111, R112): what `feed` would still make
of a state, its buffer and its inbox, is the same before and after every step. -/

namespace Sys2Proof.Machine

open Sys2Proof.Machine.Claims

/-! ### `feed`, one byte at a time -/

/-- One iteration more than there are bytes changes nothing. -/
theorem feedLoop_succ (idx : Fin 6) {n : Nat} {l : List Byte} (h : l.length ≤ n) :
    feedLoop idx (n + 1) l = feedLoop idx n l := by
  induction n generalizing l with
  | zero => rw [feedLoop_short idx _ (by omega), feedLoop_short idx _ (by omega)]
  | succ n ih =>
    have fewer (k : Nat) (removes : 0 < k) : (l.drop k).length ≤ n := by
      rw [List.length_drop]
      omega
    by_cases short : l.length < 9
    · rw [feedLoop_short idx _ short, feedLoop_short idx _ short]
    · obtain ⟨w, front⟩ := Frame.ofBytes_long (Nat.not_lt.mp short)
      cases valid : w.valid with
      | true => rw [feedLoop_valid idx _ front valid, feedLoop_valid idx _ front valid, ih (fewer 9 (by omega))]
      | false => rw [feedLoop_invalid idx _ front valid, feedLoop_invalid idx _ front valid, ih (fewer 1 (by omega))]

/-- As many iterations as bytes are enough (42_decoder.md R111). -/
theorem feedLoop_of_length_le (idx : Fin 6) {n : Nat} {l : List Byte} (h : l.length ≤ n) :
    feedLoop idx n l = feedLoop idx l.length l := by
  induction n, h using Nat.le_induction with
  | base => rfl
  | succ n enough ih => rw [feedLoop_succ idx enough, ih]

/-- Fewer than nine bytes with nothing after them stay as they are. -/
theorem feed_rest (idx : Fin 6) {buf : List Byte} (h : buf.length ≤ 8) : feed idx buf [] = (buf, []) := by
  rw [feed, List.append_nil, feedLoop_short idx _ (by omega)]

/-- FILL: a byte may wait in the buffer or in the chunk. -/
theorem feed_fill (idx : Fin 6) (buf : List Byte) (b : Byte) (chunk : List Byte) :
    feed idx buf (b :: chunk) = feed idx (buf ++ [b]) chunk := by
  rw [feed, feed, List.append_cons]

/-- ACCEPT: a valid window at the front is consumed and its Event comes first. -/
theorem feed_accept (idx : Fin 6) {buf : List Byte} {w : Frame} (front : Frame.ofBytes buf = some w)
    (valid : w.valid = true) (chunk : List Byte) :
    feed idx buf chunk =
      ((feed idx (buf.drop 9) chunk).1, eventOf idx w :: (feed idx (buf.drop 9) chunk).2) := by
  have nine := Frame.length_of_ofBytes front
  have left : (buf ++ chunk).drop 9 = buf.drop 9 ++ chunk := List.drop_append_of_le_length nine
  obtain ⟨n, fuel⟩ : ∃ n, (buf ++ chunk).length = n + 1 :=
    Nat.exists_eq_add_one.mpr (by rw [List.length_append]; omega)
  have enough : (buf.drop 9 ++ chunk).length ≤ n := by
    rw [← left, List.length_drop]
    omega
  rw [feed, feed, fuel, feedLoop_valid idx n (Frame.ofBytes_append front chunk) valid, left,
    feedLoop_of_length_le idx enough]

/-- SLIDE: an invalid window at the front loses its first byte. -/
theorem feed_slide (idx : Fin 6) {buf : List Byte} {w : Frame} (front : Frame.ofBytes buf = some w)
    (invalid : w.valid = false) (chunk : List Byte) : feed idx buf chunk = feed idx (buf.drop 1) chunk := by
  cases buf with
  | nil => cases front
  | cons b buf => exact feedLoop_invalid idx _ (Frame.ofBytes_append front chunk) invalid

/-! ### The simulation -/

/-- The buffer and the sink that one `feed` of the bytes still to come makes of a state. -/
def State.afterFeed (s : State) : List Byte × List Event :=
  ((feed Config.abcIdx s.buf (rxBytes s.inbox)).1, s.sink ++ (feed Config.abcIdx s.buf (rxBytes s.inbox)).2)

/-- With nothing to come and at most eight bytes waiting, these are the buffer and the sink of the state itself. -/
theorem State.afterFeed_of_done {s : State} (done : s.inbox = []) (bound : s.buf.length ≤ 8) :
    s.afterFeed = (s.buf, s.sink) := by
  rw [State.afterFeed, done, rxBytes, feed_rest _ bound, List.append_nil]

/-- A byte that completes no window, FILL. -/
theorem State.afterFeed_fill {s : State} {b : Byte} {rest : List Stimulus} (taken : s.inbox = rxEdge b :: rest) :
    ({ s with buf := s.buf ++ [b], ev := none, inbox := rest } : State).afterFeed = s.afterFeed := by
  simp only [State.afterFeed, taken, rxBytes, feed_fill]

/-- A byte that completes a valid window, ACCEPT. -/
theorem State.afterFeed_accept {s : State} {b : Byte} {rest : List Stimulus} {w : Frame}
    (taken : s.inbox = rxEdge b :: rest) (front : Frame.ofBytes (s.buf ++ [b]) = some w) (valid : w.valid = true) :
    (delivered (eventOf Config.abcIdx w) { s with buf := s.buf ++ [b], inbox := rest }).afterFeed = s.afterFeed := by
  simp only [State.afterFeed, delivered, taken, rxBytes, feed_fill, feed_accept _ front valid, List.append_assoc,
    List.singleton_append]

/-- A byte that completes an invalid window, SLIDE. -/
theorem State.afterFeed_slide {s : State} {b : Byte} {rest : List Stimulus} {w : Frame}
    (taken : s.inbox = rxEdge b :: rest) (front : Frame.ofBytes (s.buf ++ [b]) = some w) (invalid : w.valid = false) :
    ({ s with buf := (s.buf ++ [b]).drop 1, ev := none, inbox := rest } : State).afterFeed = s.afterFeed := by
  simp only [State.afterFeed, taken, rxBytes, feed_fill, feed_slide _ front invalid]

theorem noReset_tail {l : List Stimulus} (h : noReset l = true) : noReset l.tail = true := by
  cases l with
  | nil => rfl
  | cons x l =>
    rw [noReset, List.all_cons, Bool.and_eq_true] at h
    exact h.2

/-- Every step but a reset edge takes the next stimulus and leaves what `feed` would still make of the state. -/
theorem step_keeps_afterFeed {s : State} (clear : noReset s.inbox = true) :
    ∃ t, step s = .next t ∧ t.inbox = s.inbox.tail ∧ t.afterFeed = s.afterFeed := by
  rcases step_cases s with ⟨rest, idle, next⟩ | ⟨v, b, rest, reset, -⟩ | ⟨r, rest, request, a, next⟩ |
    ⟨b, rest, byte, ⟨-, next⟩ | ⟨w, front, valid, -⟩ | ⟨w, front, invalid, next⟩⟩
  · refine ⟨_, next, ?_⟩
    rcases idle with ⟨empty, rfl⟩ | ⟨b, edge⟩
    · simp [State.afterFeed, empty]
    · simp [State.afterFeed, edge, rxBytes]
  · rw [reset] at clear
    cases clear
  · exact ⟨_, next, by simp [State.afterFeed, request, rxBytes]⟩
  · exact ⟨_, next, by rw [byte, List.tail_cons], State.afterFeed_fill byte⟩
  · exact ⟨_, step_of_validWindow byte front valid, by rw [byte, List.tail_cons]; rfl,
      State.afterFeed_accept byte front valid⟩
  · exact ⟨_, next, by rw [byte, List.tail_cons], State.afterFeed_slide byte front invalid⟩

/-- A run over the whole inbox, without a reset edge, ends with what `feed` makes of the state it starts in. -/
theorem run_reaches_afterFeed {s : State} (bound : s.buf.length ≤ 8) (clear : noReset s.inbox = true) :
    ∃ t, Host.Core.run Sys2Proof.core s.inbox.length s = .next t ∧ t.inbox = [] ∧ (t.buf, t.sink) = s.afterFeed := by
  induction inbox : s.inbox generalizing s with
  | nil => exact ⟨s, rfl, inbox, (State.afterFeed_of_done inbox bound).symm⟩
  | cons x rest ih =>
    obtain ⟨u, next, left, kept⟩ := step_keeps_afterFeed clear
    have clearRest : noReset u.inbox = true := left ▸ noReset_tail clear
    rw [inbox, List.tail_cons] at left
    obtain ⟨t, run, done, reached⟩ := ih (step_buf_length_le bound next) clearRest left
    exact ⟨t, (run_of_step next).trans run, done, reached.trans kept⟩

/-- Settles O43: by induction on the inbox, each step keeping what `feed` would still make of the state. -/
theorem machineRunIsFeed : Obligations.MachineRunIsFeed := by
  intro s bound clear
  obtain ⟨t, run, done, reached⟩ := run_reaches_afterFeed bound clear
  obtain ⟨buf, sink⟩ := Prod.mk.inj reached
  exact ⟨t, run, done, buf, sink⟩

end Sys2Proof.Machine

/-! PROOF. The accesses to the buffer (20_memory.md R33): each case of a step, with what it does to the buffer. -/

namespace Sys2Proof.Machine

open Sys2Proof.Machine.Claims

/-- Settles O24: an idle edge and a request leave the buffer, a reset edge empties it, and a byte fills, slides or
completes a valid window. -/
theorem bufferAccessesAreThree : Obligations.BufferAccessesAreThree := by
  intro s t next
  rcases step_cases s with ⟨rest, -, outcome⟩ | ⟨v, b, rest, reset, outcome⟩ | ⟨r, rest, -, a, outcome⟩ |
    ⟨b, rest, byte, ⟨-, outcome⟩ | ⟨w, front, valid, -⟩ | ⟨w, -, -, outcome⟩⟩
  case inr.inr.inr.inr.inl =>
    cases (step_of_validWindow byte front valid).symm.trans next
    exact .inr ⟨⟨_, rfl⟩, b, rfl⟩
  all_goals
    cases outcome.symm.trans next
    refine .inl ⟨rfl, ?_⟩
  · exact .inl rfl
  · exact .inr (.inr (.inr ⟨rfl, v, b, rest, reset⟩))
  · exact .inl rfl
  · exact .inr (.inl ⟨b, rfl⟩)
  · exact .inr (.inr (.inl ⟨b, rfl⟩))

end Sys2Proof.Machine

/-! PROOF. A receiver reassembles the offset (20_memory.md R30, R37): the frame an operation answers with, whatever it
requires first, and the fields of that frame. -/

namespace Sys2Proof.Machine

open Sys2Proof.Machine.Claims

/-- A result with the frame `f` on the encoder's ports. -/
def SendsFrame (r : Result) (f : Frame) : Prop := ∃ t, r = .next t ∧ t.enc = some (.frame f)

theorem sendsFrame_send_iff {c : Byte} {p : Payload} {s : State} {f : Frame} :
    SendsFrame (send c p s) f ↔ f = assemble c p := by
  simp [SendsFrame, send_next, eq_comm]

theorem not_sendsFrame_refusal (c : EncErr) (s : State) (f : Frame) :
    ¬ SendsFrame (.next (s.raiseInvalidArgument c)) f := by
  simp [SendsFrame]

/-- A frame sent behind the count check is sent by what follows it. -/
theorem SendsFrame.of_requireArgc {code : Byte} {a : Args} {s : State} {go : Result} {f : Frame}
    (h : SendsFrame (requireArgc code a s go) f) : SendsFrame go f := by
  by_cases count : argcReq code = some a.argc
  · rwa [requireArgc_met count] at h
  · rw [requireArgc_missed count] at h
    exact absurd h (not_sendsFrame_refusal .argc s f)

theorem mem_writeFamily_iff (c : Byte) : c ∈ writeFamily ↔ 0x80 ≤ c.toNat ∧ c.toNat ≤ 0x83 := by
  simp only [writeFamily, List.mem_cons, List.not_mem_nil, or_false]
  bv_omega

theorem mem_readFamily_iff (c : Byte) : c ∈ readFamily ↔ 0x90 ≤ c.toNat ∧ c.toNat ≤ 0x93 := by
  simp only [readFamily, List.mem_cons, List.not_mem_nil, or_false]
  bv_omega

/-- A code byte and an offset-low byte carry the offset `n` in the family with the code `base` (20_memory.md R37). -/
structure CarriesOffset (base n : Nat) (c lo : Byte) : Prop where
  inRange : n ≤ 1023
  code : c.toNat = base + n / 256
  low : lo.toNat = n % 256

/-- What a receiver computes is the offset carried. -/
theorem CarriesOffset.reassemble {base n : Nat} {c lo : Byte} (h : CarriesOffset base n c lo) :
    (c.toNat - base) * 256 + lo.toNat = n := by
  rw [h.code, h.low]
  omega

theorem CarriesOffset.mem_writeFamily {n : Nat} {c lo : Byte} (h : CarriesOffset 0x80 n c lo) : c ∈ writeFamily := by
  have block := h.inRange
  rw [mem_writeFamily_iff, h.code]
  omega

theorem CarriesOffset.mem_readFamily {n : Nat} {c lo : Byte} (h : CarriesOffset 0x90 n c lo) : c ∈ readFamily := by
  have block := h.inRange
  rw [mem_readFamily_iff, h.code]
  omega

/-- A generic code resolved by its offset carries it (40_command_codes.md R73). -/
theorem SendsFrame.of_requireResolved {g : Byte} {a : Args} {s : State} {layout : Byte → Payload} {f : Frame}
    (generic : isGeneric g = true) (h : SendsFrame (requireResolved g a s fun c lo => send c (layout lo) s) f) :
    ∃ c lo, CarriesOffset g.toNat a.arg0.toNat c lo ∧ f = assemble c (layout lo) := by
  by_cases inRange : a.arg0.toNat ≤ 1023
  · rw [requireResolved_inRange generic inRange, sendsFrame_send_iff] at h
    refine ⟨_, _, ⟨inRange, ?_, ?_⟩, h⟩
    · rcases isGeneric_cases generic with rfl | rfl <;> simp <;> omega
    · simp
  · rw [requireResolved_outOfRange (Nat.not_le.mp inRange)] at h
    exact absurd h (not_sendsFrame_refusal .range s f)

/-- The sub-code of the block `k` given directly carries the offset that its argument is in that block. -/
theorem SendsFrame.of_requireOffsetLow {c : Byte} {base k : Nat} {a : Args} {s : State} {layout : Byte → Payload}
    {f : Frame} (block : k ≤ 3) (code : c.toNat = base + k)
    (h : SendsFrame (requireOffsetLow a s fun lo => send c (layout lo) s) f) :
    ∃ c lo, CarriesOffset base (k * 256 + a.arg0.toNat) c lo ∧ f = assemble c (layout lo) := by
  by_cases low : a.arg0.toNat ≤ 255
  · rw [requireOffsetLow_inRange low, sendsFrame_send_iff] at h
    refine ⟨_, _, ⟨?_, ?_, ?_⟩, h⟩
    · omega
    · omega
    · rw [BitVec.toNat_setWidth]
      omega
  · rw [requireOffsetLow_outOfRange (Nat.not_le.mp low)] at h
    exact absurd h (not_sendsFrame_refusal .range s f)

/-- A write that sends format W under a code and a byte that carry the offset reassembles. -/
theorem writeReassembles_of_carries {k : Nat} {mk : Args → Instr}
    (sent : ∀ a s f, SendsFrame (exec (mk a) s) f →
      ∃ c lo, CarriesOffset 0x80 (k * 256 + a.arg0.toNat) c lo ∧ f = assemble c (layoutW lo a.arg1)) :
    WriteReassembles k mk := by
  intro a s t f next frame
  obtain ⟨c, lo, carries, rfl⟩ := sent a s f ⟨t, next, frame⟩
  exact ⟨carries.mem_writeFamily, carries.reassemble, be32_append a.arg1⟩

/-- A read that sends format R under a code and a byte that carry the offset reassembles. -/
theorem readReassembles_of_carries {k : Nat} {mk : Args → Instr}
    (sent : ∀ a s f, SendsFrame (exec (mk a) s) f →
      ∃ c lo, CarriesOffset 0x90 (k * 256 + a.arg0.toNat) c lo ∧ f = assemble c (layoutR lo)) :
    ReadReassembles k mk := by
  intro a s t f next frame
  obtain ⟨c, lo, carries, rfl⟩ := sent a s f ⟨t, next, frame⟩
  exact ⟨carries.mem_readFamily, carries.reassemble⟩

theorem writeReassembles_generic {mk : Args → Instr} (meaning : ∀ a s, exec (mk a) s = genericWrite a s) :
    WriteReassembles 0 mk := by
  refine writeReassembles_of_carries fun a s f sends => ?_
  rw [meaning, genericWrite] at sends
  rw [Nat.zero_mul, Nat.zero_add]
  exact sends.of_requireArgc.of_requireResolved (by decide)

theorem readReassembles_generic {mk : Args → Instr} (meaning : ∀ a s, exec (mk a) s = genericRead a s) :
    ReadReassembles 0 mk := by
  refine readReassembles_of_carries fun a s f sends => ?_
  rw [meaning, genericRead] at sends
  rw [Nat.zero_mul, Nat.zero_add]
  exact sends.of_requireArgc.of_requireResolved (layout := layoutR) (by decide)

theorem writeReassembles_direct {c : Byte} {k : Nat} {mk : Args → Instr}
    (meaning : ∀ a s, exec (mk a) s = directWrite c a s) (block : k ≤ 3) (code : c.toNat = 0x80 + k) :
    WriteReassembles k mk := by
  refine writeReassembles_of_carries fun a s f sends => ?_
  rw [meaning, directWrite] at sends
  exact sends.of_requireArgc.of_requireOffsetLow block code

theorem readReassembles_direct {c : Byte} {k : Nat} {mk : Args → Instr}
    (meaning : ∀ a s, exec (mk a) s = directRead c a s) (block : k ≤ 3) (code : c.toNat = 0x90 + k) :
    ReadReassembles k mk := by
  refine readReassembles_of_carries fun a s f sends => ?_
  rw [meaning, directRead] at sends
  exact sends.of_requireArgc.of_requireOffsetLow block code

/-- Settles O36: the four generic forms by the resolution of their offset, the six sub-codes by their block. -/
theorem receiverReassemblesOffset : Obligations.ReceiverReassemblesOffset :=
  ⟨writeReassembles_generic fun _ _ => rfl, writeReassembles_generic fun _ _ => rfl,
    writeReassembles_direct (c := 0x81) (fun _ _ => rfl) (by decide) rfl,
    writeReassembles_direct (c := 0x82) (fun _ _ => rfl) (by decide) rfl,
    writeReassembles_direct (c := 0x83) (fun _ _ => rfl) (by decide) rfl,
    readReassembles_generic fun _ _ => rfl, readReassembles_generic fun _ _ => rfl,
    readReassembles_direct (c := 0x91) (fun _ _ => rfl) (by decide) rfl,
    readReassembles_direct (c := 0x92) (fun _ _ => rfl) (by decide) rfl,
    readReassembles_direct (c := 0x93) (fun _ _ => rfl) (by decide) rfl⟩

end Sys2Proof.Machine

/-! PROOF. Decoding a wire frame inverts encoding (30_encoding.md R52, R54, R57): the row of each wire code, the layouts
taken apart and put together again, and from these both directions of `decodeTx`. -/

namespace Sys2Proof

/-! ### The layouts as arguments and back -/

theorem Payload.toBits_ofBits (v : BitVec 48) : (Payload.ofBits v).toBits = v := by
  apply BitVec.eq_of_toNat_eq
  rw [Payload.toBits_toNat]
  simp only [Payload.ofBits, BitVec.extractLsb'_toNat, Nat.shiftRight_eq_div_pow]
  have := v.isLt
  omega

/-- The low byte of an offset-low byte written as an offset is that byte. -/
theorem lowByte_setWidth (b : Byte) : (b.setWidth 16).extractLsb' 0 8 = b := by
  apply extractByte_eq
  rw [BitVec.toNat_setWidth]
  have := b.isLt
  omega

/-- An offset-low byte lies in block 0 of its family (30_encoding.md R60). -/
theorem block_setWidth (b : Byte) : (b.setWidth 16).extractLsb' 8 2 = 0 := by
  apply BitVec.eq_of_toNat_eq
  rw [BitVec.extractLsb'_toNat, Nat.shiftRight_eq_div_pow, BitVec.toNat_setWidth,
    show BitVec.toNat (0 : BitVec 2) = 0 from rfl]
  have := b.isLt
  omega

theorem setWidth_offsetLow (b : Byte) : (b.setWidth 16).toNat ≤ 255 := by
  rw [BitVec.toNat_setWidth]
  have := b.isLt
  omega

/-- Format I read back: the two interval bytes. -/
theorem be16_fields (x y : Byte) : (x ++ y).extractLsb' 8 8 = x ∧ (x ++ y).extractLsb' 0 8 = y := by
  constructor <;> apply extractByte_eq <;> rw [toNat_append_byte] <;> omega

theorem writeFields_writeArgs {p : Payload} (fits : p.fitsW = true) : writeFields (writeArgs p) = p := by
  have zeroFill : p.p5 = 0 := by simpa [Payload.fitsW] using fits
  rw [writeFields, Payload.mk.injEq]
  refine ⟨lowByte_setWidth p.p0, ?_, ?_, ?_, ?_, zeroFill.symm⟩ <;>
    apply extractByte_eq <;> simp only [writeArgs, toNat_append_byte] <;> omega

/-- A payload that fits format R is its first byte and zero fill. -/
theorem Payload.fitsR_iff (p : Payload) : p.fitsR = true ↔ p = ⟨p.p0, 0, 0, 0, 0, 0⟩ := by
  obtain ⟨p0, p1, p2, p3, p4, p5⟩ := p
  simp [Payload.fitsR, and_assoc]

theorem readFields_readArgs {p : Payload} (fits : p.fitsR = true) : readFields (readArgs p) = p := by
  rw [p.fitsR_iff.mp fits]
  simp only [readFields, readArgs, lowByte_setWidth]

/-! ### Well-formedness as facts about the ports -/

theorem Args.countOk_iff (a : Args) (code : Byte) : a.countOk code = true ↔ argcReq code = some a.argc :=
  beq_iff_eq

theorem Args.offsetOk_iff (a : Args) : a.offsetOk = true ↔ a.arg0.toNat ≤ 1023 := decide_eq_true_iff

theorem Args.offsetLowOk_iff (a : Args) : a.offsetLowOk = true ↔ a.arg0.toNat ≤ 255 := decide_eq_true_iff

/-- A well-formed direct write is read back from its fields. -/
theorem writeArgs_writeFields_of_wf {code : Byte} (two : argcReq code = some 2) {a : Args}
    (wf : (a.countOk code && a.offsetLowOk) = true) : writeArgs (writeFields a) = a := by
  rw [Bool.and_eq_true, a.countOk_iff, a.offsetLowOk_iff, two] at wf
  obtain ⟨count, low⟩ := wf
  rw [writeArgs_writeFields, offsetLow_self low, Option.some.inj count]

/-- A well-formed direct read is read back from its fields, but for the value port it ignores. -/
theorem readArgs_readFields_of_wf {code : Byte} {a : Args} (wf : (a.countOk code && a.offsetLowOk) = true) :
    readArgs (readFields a) = ⟨1, a.arg0, 0⟩ := by
  rw [Bool.and_eq_true, a.offsetLowOk_iff] at wf
  rw [readArgs_readFields, offsetLow_self wf.2]

/-! ### The constant rows have the checksum of their code and six zero bytes (30_encoding.md R54) -/

theorem encode_queryAbc (a : Args) : encode (.queryAbc a) = wireFrame 0x7D layoutZ := by
  rw [encode]
  decide

theorem encode_reset (a : Args) : encode (.reset a) = wireFrame 0x8D layoutZ := by
  rw [encode]
  decide

theorem encode_queryFwVersion (a : Args) : encode (.queryFwVersion a) = wireFrame 0xA0 layoutZ := by
  rw [encode]
  decide

/-! ### A frame that fits a row is that row's frame -/

/-- `encode` gives the frame back and the command is well-formed. -/
def Builds (i : Instr) (f : Frame) : Prop := encode i = f ∧ i.wf = true

theorem builds_toggleAbc {p : Payload} (fits : p.fitsB = true) :
    Builds (.toggleAbc ⟨1, if p.p0 = abcOnByte then 1 else 0, 0⟩) (wireFrame 0x79 p) := by
  rw [Payload.fitsB, Bool.and_eq_true, p.fitsR_iff, Bool.or_eq_true, beq_iff_eq, beq_iff_eq] at fits
  obtain ⟨onOrOff, zeroFill⟩ := fits
  rw [zeroFill]
  rcases onOrOff with on | off
  · rw [on]
    exact ⟨rfl, rfl⟩
  · rw [off]
    exact ⟨rfl, rfl⟩

theorem builds_setInterval {p : Payload} (fits : p.fitsI = true) :
    Builds (.setInterval ⟨1, p.p1 ++ p.p2, 0⟩) (wireFrame 0x7E p) := by
  obtain ⟨p0, p1, p2, p3, p4, p5⟩ := p
  simp only [Payload.fitsI, Bool.and_eq_true, beq_iff_eq, and_assoc] at fits
  obtain ⟨rfl, rfl, rfl, rfl⟩ := fits
  refine ⟨?_, rfl⟩
  simp only [encode, be16_fields]

theorem writeArgs_wf {code : Byte} (two : argcReq code = some 2) (p : Payload) :
    ((writeArgs p).countOk code && (writeArgs p).offsetLowOk) = true := by
  rw [Bool.and_eq_true, Args.countOk_iff, Args.offsetLowOk_iff]
  exact ⟨two, setWidth_offsetLow p.p0⟩

theorem readArgs_wf {code : Byte} (one : argcReq code = some 1) (p : Payload) :
    ((readArgs p).countOk code && (readArgs p).offsetLowOk) = true := by
  rw [Bool.and_eq_true, Args.countOk_iff, Args.offsetLowOk_iff]
  exact ⟨one, setWidth_offsetLow p.p0⟩

/-- A concrete row's range check implies the generic one. -/
theorem offsetOk_of_offsetLowOk {code : Byte} {a : Args} (wf : (a.countOk code && a.offsetLowOk) = true) :
    (a.countOk code && a.offsetOk) = true := by
  rw [Bool.and_eq_true, a.offsetLowOk_iff] at wf
  rw [Bool.and_eq_true, a.offsetOk_iff]
  exact ⟨wf.1, by omega⟩

theorem builds_writeConfig {p : Payload} (fits : p.fitsW = true) :
    Builds (.writeConfig (writeArgs p)) (wireFrame 0x80 p) := by
  refine ⟨?_, offsetOk_of_offsetLowOk (writeArgs_wf argcReq_80 p)⟩
  rw [encode, writeFields_writeArgs fits, familyCode, writeArgs, block_setWidth]
  rfl

theorem builds_readConfig {p : Payload} (fits : p.fitsR = true) :
    Builds (.readConfig (readArgs p)) (wireFrame 0x90 p) := by
  refine ⟨?_, offsetOk_of_offsetLowOk (readArgs_wf argcReq_90 p)⟩
  rw [encode, readFields_readArgs fits, familyCode, readArgs, block_setWidth]
  rfl

/-- The row of the table that a frame fits is a well-formed command with that frame. -/
theorem builds_of_layoutCommand {c : Byte} {p : Payload} {i : Instr} (h : layoutCommand (wireFrame c p) = some i) :
    Builds i (wireFrame c p) := by
  simp only [layoutCommand, ite_eq_iff, Option.some.injEq, reduceCtorEq, and_false, or_false] at h
  dsimp only [wireFrame] at h
  rcases h with ⟨⟨rfl, fits⟩, rfl⟩ | ⟨-, ⟨⟨rfl, rfl, -⟩, rfl⟩ | ⟨-, ⟨⟨rfl, fits⟩, rfl⟩ | ⟨-, ⟨⟨rfl, fits⟩, rfl⟩ |
    ⟨-, ⟨⟨rfl, fits⟩, rfl⟩ | ⟨-, ⟨⟨rfl, fits⟩, rfl⟩ | ⟨-, ⟨⟨rfl, fits⟩, rfl⟩ | ⟨-, ⟨⟨rfl, rfl, -⟩, rfl⟩ |
    ⟨-, ⟨⟨rfl, fits⟩, rfl⟩ | ⟨-, ⟨⟨rfl, fits⟩, rfl⟩ | ⟨-, ⟨⟨rfl, fits⟩, rfl⟩ | ⟨-, ⟨⟨rfl, fits⟩, rfl⟩ |
    ⟨-, ⟨rfl, rfl, -⟩, rfl⟩⟩⟩⟩⟩⟩⟩⟩⟩⟩⟩⟩
  · exact builds_toggleAbc fits
  · exact ⟨by decide, rfl⟩
  · exact builds_setInterval fits
  · exact builds_writeConfig fits
  · exact ⟨congrArg (wireFrame 0x81) (writeFields_writeArgs fits), writeArgs_wf argcReq_81 p⟩
  · exact ⟨congrArg (wireFrame 0x82) (writeFields_writeArgs fits), writeArgs_wf argcReq_82 p⟩
  · exact ⟨congrArg (wireFrame 0x83) (writeFields_writeArgs fits), writeArgs_wf argcReq_83 p⟩
  · exact ⟨by decide, rfl⟩
  · exact builds_readConfig fits
  · exact ⟨congrArg (wireFrame 0x91) (readFields_readArgs fits), readArgs_wf argcReq_91 p⟩
  · exact ⟨congrArg (wireFrame 0x92) (readFields_readArgs fits), readArgs_wf argcReq_92 p⟩
  · exact ⟨congrArg (wireFrame 0x93) (readFields_readArgs fits), readArgs_wf argcReq_93 p⟩
  · exact ⟨by decide, rfl⟩

/-! ### `decodeTx` in both directions -/

theorem decodeTx_wireFrame {c : Byte} (member : isCode c = true) (p : Payload) :
    decodeTx (wireFrame c p) = .ok ((layoutCommand (wireFrame c p)).getD (.raw c p.toBits)) := by
  rw [decodeTx, checkFrame_valid (wireFrame_valid c p)]
  exact if_pos member

/-- Only valid frames with a member code decode. -/
theorem decodeTx_ok_inv {f : Frame} {i : Instr} (h : decodeTx f = .ok i) : f.valid = true ∧ isCode f.code = true := by
  cases valid : f.valid with
  | false =>
    obtain ⟨e, rejected, -⟩ := checkFrame_invalid valid
    rw [decodeTx, rejected] at h
    cases h
  | true =>
    rw [decodeTx, checkFrame_valid valid] at h
    cases member : isCode f.code with
    | false => simp [member] at h
    | true => exact ⟨rfl, rfl⟩

/-- A valid frame is its code and payload with their checksum. -/
theorem Frame.eq_wireFrame {f : Frame} (valid : f.valid = true) : f = wireFrame f.code f.payload := by
  obtain ⟨hdr, cs⟩ := f.valid_iff_fields.mp valid
  rw [wireFrame, ← hdr]
  exact congrArg (Frame.mk f.hdr f.code f.payload) cs.symm

/-- A decoded command builds the frame it was decoded from (41_encoder.md R94). -/
theorem builds_of_decodeTx {f : Frame} {i : Instr} (h : decodeTx f = .ok i) : Builds i f := by
  obtain ⟨valid, member⟩ := decodeTx_ok_inv h
  rw [f.eq_wireFrame valid] at h ⊢
  rw [decodeTx_wireFrame member, Except.ok.injEq] at h
  cases layout : layoutCommand (wireFrame f.code f.payload) with
  | some j =>
    rw [layout, Option.getD_some] at h
    exact h ▸ builds_of_layoutCommand layout
  | none =>
    rw [layout, Option.getD_none] at h
    subst h
    exact ⟨by rw [encode, f.payload.ofBits_toBits], member⟩

/-- A frame with a member code that fits a row decodes to that row. -/
theorem decodeTx_of_layout {c : Byte} {p : Payload} {i : Instr} (member : isCode c = true)
    (layout : layoutCommand (wireFrame c p) = some i) : decodeTx (wireFrame c p) = .ok i := by
  rw [decodeTx_wireFrame member, layout, Option.getD_some]

/-- The frame of a generic write is that of the concrete sub-code its block selects (30_encoding.md R60). -/
theorem decodeTx_writeFamily (a : Args) :
    decodeTx (wireFrame (familyCode 0x20 a.arg0) (writeFields a)) = .ok (concreteWrite a) := by
  rw [familyCode, concreteWrite, ← writeArgs_writeFields]
  rcases block_cases (a.arg0.extractLsb' 8 2) with block | block | block | block <;> rw [block] <;>
    exact decodeTx_of_layout (by decide) rfl

/-- The frame of a generic read is that of the concrete sub-code its block selects (30_encoding.md R60). -/
theorem decodeTx_readFamily (a : Args) :
    decodeTx (wireFrame (familyCode 0x24 a.arg0) (readFields a)) = .ok (concreteRead a) := by
  rw [familyCode, concreteRead, ← readArgs_readFields]
  rcases block_cases (a.arg0.extractLsb' 8 2) with block | block | block | block <;> rw [block] <;>
    exact decodeTx_of_layout (by decide) rfl

theorem decodeTx_toggleAbc (a : Args) : decodeTx (encode (.toggleAbc a)) = .ok (Instr.canonical (.toggleAbc a)) := by
  refine decodeTx_of_layout (by decide) ?_
  rw [Instr.canonical]
  by_cases off : a.arg0 = 0
  · rw [if_pos off, if_pos off]
    rfl
  · rw [if_neg off, if_neg off]
    rfl

/-- The frame of a well-formed encoder operation decodes to its canonical command. -/
theorem decodeTx_encode {i : Instr} (tx : i.direction = .tx) (wf : i.wf = true) :
    decodeTx (encode i) = .ok i.canonical := by
  cases i <;> simp only [Instr.direction, reduceCtorEq] at tx
  case toggleAbc a => exact decodeTx_toggleAbc a
  case queryAbc a => exact encode_queryAbc a ▸ decodeTx_of_layout (by decide) rfl
  case reset a => exact encode_reset a ▸ decodeTx_of_layout (by decide) rfl
  case queryFwVersion a => exact encode_queryFwVersion a ▸ decodeTx_of_layout (by decide) rfl
  case setInterval a =>
    rw [Instr.canonical, ← be16_append a.arg0]
    exact decodeTx_of_layout (by decide) rfl
  case writeConfig a | writeConfigGeneric a => exact decodeTx_writeFamily a
  case readConfig a | readConfigGeneric a => exact decodeTx_readFamily a
  case writeConfig1 | writeConfig2 | writeConfig3 =>
    refine (decodeTx_of_layout (by decide) rfl).trans ?_
    exact congrArg _ (congrArg _ (writeArgs_writeFields_of_wf (by decide) wf))
  case readConfig1 | readConfig2 | readConfig3 =>
    rw [Instr.canonical, ← readArgs_readFields_of_wf wf]
    exact decodeTx_of_layout (by decide) rfl
  case raw c v =>
    rw [encode, decodeTx_wireFrame wf, Payload.toBits_ofBits]
    rfl

/-- Settles O49: the frame decodes to the canonical command, and what is decoded builds the frame it came from. -/
theorem wireDecodeEncode : Obligations.WireDecodeEncode := by
  intro i tx wf
  have decoded := decodeTx_encode tx wf
  exact ⟨decoded, builds_of_decodeTx decoded⟩

end Sys2Proof

/-! PROOF. What each encoder operation answers (30_encoding.md R52 to R54; 60_exceptions.md R141): the frame that the
encoding tables give it when its checks hold, a refusal when one fails. -/

namespace Sys2Proof

/-- Resolving a generic code selects the table's wire code (30_encoding.md R60; 40_command_codes.md R73). -/
theorem resolved_eq_familyCode {g : Byte} {base : BitVec 6} {off : BitVec 16} (h : g.toNat = base.toNat * 4)
    (inRange : off.toNat ≤ 1023) : g + BitVec.ofNat 8 (off.toNat / 256) = familyCode base off := by
  apply BitVec.eq_of_toNat_eq
  rw [familyCode, BitVec.toNat_append, Nat.shiftLeft_eq, Nat.mul_comm, ← Nat.two_pow_add_eq_or_of_lt (BitVec.isLt _),
    BitVec.extractLsb'_toNat, Nat.shiftRight_eq_div_pow, BitVec.toNat_add, BitVec.toNat_ofNat, h]
  have := base.isLt
  omega

theorem layoutW_lowByte (a : Args) : layoutW (BitVec.ofNat 8 (a.arg0.toNat % 256)) a.arg1 = writeFields a := by
  rw [lowByte_eq]
  rfl

theorem layoutR_lowByte (a : Args) : layoutR (BitVec.ofNat 8 (a.arg0.toNat % 256)) = readFields a := by
  rw [lowByte_eq]
  rfl

end Sys2Proof

namespace Sys2Proof.Machine

open Sys2Proof.Machine.Claims

/-- A result that answers the frame `f` when the checks `ok` hold and a refusal when they do not. -/
def AnswersWhen (ok : Bool) (f : Frame) (s : State) (r : Result) : Prop :=
  (ok = true → r = .next (answered f s)) ∧ (ok = false → ∃ c, r = .next (refusedWith c s))

theorem answersWhen_of_answer {f : Frame} {s : State} {r : Result} (h : r = .next (answered f s)) :
    AnswersWhen true f s r := ⟨fun _ => h, nofun⟩

theorem answersWhen_of_refusal {f : Frame} {s : State} {r : Result} {c : EncErr} (h : r = .next (refusedWith c s)) :
    AnswersWhen false f s r := ⟨nofun, fun _ => ⟨c, h⟩⟩

theorem send_answersWhen (c : Byte) (p : Payload) (s : State) :
    AnswersWhen true (wireFrame c p) s (send c p s) := answersWhen_of_answer rfl

/-- The count check comes before whatever follows it. -/
theorem requireArgc_answersWhen {ok : Bool} {code : Byte} {a : Args} {f : Frame} {s : State} {go : Result}
    (h : AnswersWhen ok f s go) : AnswersWhen (a.countOk code && ok) f s (requireArgc code a s go) := by
  cases count : a.countOk code with
  | true =>
    rwa [Bool.true_and, requireArgc_met ((a.countOk_iff code).mp count)]
  | false =>
    have missed : argcReq code ≠ some a.argc := by simp [← a.countOk_iff code, count]
    exact answersWhen_of_refusal (requireArgc_missed missed)

/-- A command without a range check. -/
theorem counted_answersWhen (code : Byte) (a : Args) (p : Payload) (s : State) :
    AnswersWhen (a.countOk code) (wireFrame code p) s (requireArgc code a s (send code p s)) := by
  simpa only [Bool.and_true] using requireArgc_answersWhen (send_answersWhen code p s)

theorem requireOffsetLow_answersWhen {a : Args} {f : Frame} {s : State} {go : Byte → Result}
    (h : AnswersWhen true f s (go (a.arg0.setWidth 8))) : AnswersWhen a.offsetLowOk f s (requireOffsetLow a s go) := by
  cases low : a.offsetLowOk with
  | true => rwa [requireOffsetLow_inRange (a.offsetLowOk_iff.mp low)]
  | false =>
    have high : 255 < a.arg0.toNat := by simpa [← a.offsetLowOk_iff, low] using Nat.lt_or_ge 255 a.arg0.toNat
    exact answersWhen_of_refusal (requireOffsetLow_outOfRange high)

theorem requireResolved_answersWhen {g : Byte} {base : BitVec 6} {a : Args} {f : Frame} {s : State}
    {go : Byte → Byte → Result} (generic : isGeneric g = true) (code : g.toNat = base.toNat * 4)
    (h : AnswersWhen true f s (go (familyCode base a.arg0) (BitVec.ofNat 8 (a.arg0.toNat % 256)))) :
    AnswersWhen a.offsetOk f s (requireResolved g a s go) := by
  cases inRange : a.offsetOk with
  | true =>
    rw [a.offsetOk_iff] at inRange
    rwa [requireResolved_inRange generic inRange, resolved_eq_familyCode code inRange]
  | false =>
    have high : 1023 < a.arg0.toNat := by simpa [← a.offsetOk_iff, inRange] using Nat.lt_or_ge 1023 a.arg0.toNat
    exact answersWhen_of_refusal (requireResolved_outOfRange high)

theorem genericWrite_answersWhen (a : Args) (s : State) : AnswersWhen (a.countOk 0x80 && a.offsetOk)
    (wireFrame (familyCode 0x20 a.arg0) (writeFields a)) s (genericWrite a s) := by
  refine requireArgc_answersWhen (requireResolved_answersWhen (base := 0x20) (by decide) rfl ?_)
  rw [layoutW_lowByte]
  exact send_answersWhen _ _ s

theorem genericRead_answersWhen (a : Args) (s : State) : AnswersWhen (a.countOk 0x90 && a.offsetOk)
    (wireFrame (familyCode 0x24 a.arg0) (readFields a)) s (genericRead a s) := by
  refine requireArgc_answersWhen (requireResolved_answersWhen (base := 0x24) (by decide) rfl ?_)
  rw [layoutR_lowByte]
  exact send_answersWhen _ _ s

theorem directWrite_answersWhen (code : Byte) (a : Args) (s : State) :
    AnswersWhen (a.countOk code && a.offsetLowOk) (wireFrame code (writeFields a)) s (directWrite code a s) := by
  refine requireArgc_answersWhen (requireOffsetLow_answersWhen ?_)
  rw [BitVec.setWidth_eq_extractLsb' (by decide)]
  exact send_answersWhen _ _ s

theorem directRead_answersWhen (code : Byte) (a : Args) (s : State) :
    AnswersWhen (a.countOk code && a.offsetLowOk) (wireFrame code (readFields a)) s (directRead code a s) := by
  refine requireArgc_answersWhen (requireOffsetLow_answersWhen ?_)
  rw [BitVec.setWidth_eq_extractLsb' (by decide)]
  exact send_answersWhen _ _ s

theorem execRaw_answersWhen (code : Byte) (v : BitVec 48) (s : State) :
    AnswersWhen (isCode code) (wireFrame code (Payload.ofBits v)) s (execRaw code v s) := by
  rw [execRaw]
  cases isCode code with
  | true => exact send_answersWhen _ _ s
  | false => exact answersWhen_of_refusal rfl

/-- Format B as the table gives it. -/
theorem layoutB_eq (x : BitVec 16) : layoutB x = ⟨if x = 0 then 0x00 else 0xA0, 0, 0, 0, 0, 0⟩ := by
  rw [layoutB, ite_not]

/-- Each encoder operation, by its shape: count only, count and range, or membership. -/
theorem exec_tx_answersWhen (i : Instr) (s : State) (tx : i.direction = .tx) :
    AnswersWhen i.wf (encode i) s (exec i s) := by
  cases i <;> simp only [Instr.direction, reduceCtorEq] at tx
  case toggleAbc a => rw [encode, ← layoutB_eq]; exact counted_answersWhen _ a _ s
  case queryAbc a => rw [encode_queryAbc]; exact counted_answersWhen _ a _ s
  case setInterval a => exact counted_answersWhen _ a _ s
  case reset a => rw [encode_reset]; exact counted_answersWhen _ a _ s
  case queryFwVersion a => rw [encode_queryFwVersion]; exact counted_answersWhen _ a _ s
  case writeConfig a | writeConfigGeneric a => exact genericWrite_answersWhen a s
  case readConfig a | readConfigGeneric a => exact genericRead_answersWhen a s
  case writeConfig1 a | writeConfig2 a | writeConfig3 a => exact directWrite_answersWhen _ a s
  case readConfig1 a | readConfig2 a | readConfig3 a => exact directRead_answersWhen _ a s
  case raw code v => exact execRaw_answersWhen code v s

/-- Settles O33: by the shape of each operation's checks. -/
theorem acceptedOperationsAnswerTheirEncoding : Obligations.AcceptedOperationsAnswerTheirEncoding :=
  exec_tx_answersWhen

end Sys2Proof.Machine

/-! PROOF. A frame is valid exactly when its bytes 1 to 8 sum to zero (30_encoding.md R51). -/

namespace Sys2Proof

theorem checksum_toNat (b : List Byte) : (checksum b).toNat = (256 - byteSum b % 256) % 256 := by
  rw [checksum_eq_mod, BitVec.toNat_ofNat]
  omega

/-- A byte is the checksum of a sequence exactly when it brings the sum to zero. -/
theorem checksum_eq_iff (b : List Byte) (cs : Byte) : checksum b = cs ↔ (byteSum b + cs.toNat) % 256 = 0 := by
  rw [← BitVec.toNat_inj, checksum_toNat]
  have := cs.isLt
  omega

/-- The sum of bytes 1 to 8 is that of the body and the checksum field. -/
theorem byteSum_tail (w : Frame) : byteSum (w.toBytes.drop 1) = byteSum w.body + w.cs.toNat := by
  rw [show w.toBytes.drop 1 = w.body ++ [w.cs] from rfl, byteSum_append, byteSum_cons, byteSum_nil, Nat.add_zero]

/-- Settles O38: the checksum field is the byte that brings the sum to zero. -/
theorem validIffTailSumsToZero : Obligations.ValidIffTailSumsToZero := by
  intro w
  rw [byteSum_tail, ← checksum_eq_iff, eq_comm (a := w.cs)]
  exact ⟨w.valid_iff_fields, w.valid_iff_fields⟩

end Sys2Proof

/-! PROOF. Codes outside the set (30_encoding.md R55): how many there are, the encoder's refusal, and the Event. -/

namespace Sys2Proof

/-- The members among the 256 byte values are the 13 codes. -/
theorem filter_isCode_eq_codes : (Finset.univ.filter fun n : Fin 256 => isCode (BitVec.ofNat 8 n.val) = true) =
    (codes.map BitVec.toFin).toFinset := by
  ext n
  have value : BitVec.ofNat 8 n.val = BitVec.ofFin n := by simp
  rw [Finset.mem_filter, value, isCode_iff_mem, List.mem_toFinset, List.mem_map]
  constructor
  · intro member
    exact ⟨_, member.2, rfl⟩
  · rintro ⟨c, member, rfl⟩
    exact ⟨Finset.mem_univ _, member⟩

theorem card_notMember : (Finset.univ.filter fun n : Fin 256 => isCode (BitVec.ofNat 8 n.val) = false).card = 243 := by
  have partition := Finset.card_filter_add_card_filter_not (s := (Finset.univ : Finset (Fin 256)))
    fun n => isCode (BitVec.ofNat 8 n.val) = true
  have members : (codes.map BitVec.toFin).toFinset.card = 13 := by decide
  simp only [filter_isCode_eq_codes, members, Bool.not_eq_true, Finset.card_univ, Fintype.card_fin] at partition
  omega

end Sys2Proof

namespace Sys2Proof.Machine

open Sys2Proof.Machine.Claims

/-- The encoder refuses a code outside the set, with the override or without (41_encoder.md R80 step 1). -/
theorem step_request_badCode {s : State} {r : EncRequest} {rest : List Stimulus} (notMember : isCode r.code = false)
    (taken : s.inbox = .request r :: rest) : step s = .next (refusedWith .badCode { s with inbox := rest }) := by
  obtain ⟨c, a, rawEn, v⟩ := r
  have fetched := fetch_request taken
  cases rawEn with
  | true =>
    rw [present, decodeRequest_raw] at fetched
    exact (step_of_run fetched).trans (if_neg (by simp [notMember]))
  | false =>
    rw [present, decodeRequest_notMember notMember] at fetched
    exact step_of_done fetched

/-- The Event of a window with a code outside the set (42_decoder.md R122). -/
theorem eventOf_notMember (idx : Fin 6) {w : Frame} (notMember : isCode w.code = false) :
    eventOf idx w = ⟨w.code, w.payload, w.cs, none, none, some .unrecognisedCode⟩ := by
  have not7D : w.code ≠ 0x7D := fun h => absurd (h ▸ notMember) (by decide)
  have notA0 : w.code ≠ 0xA0 := fun h => absurd (h ▸ notMember) (by decide)
  rw [eventOf, if_neg not7D, if_neg notA0, if_pos (by rw [notMember]; rfl)]

/-- A window that ends with the byte just received leaves the buffer empty, which held its first eight bytes. -/
theorem drop_nine_of_window {w : Frame} {l : List Byte} {b : Byte} (window : w.toBytes = l ++ [b]) :
    (l ++ [b]).drop 9 = l.drop 9 := by
  have nine : (l ++ [b]).length = 9 := by rw [← window, w.toBytes_length]
  have fewer : l.length ≤ 9 := by
    rw [List.length_append, List.length_singleton] at nine
    omega
  rw [List.drop_of_length_le nine.le, List.drop_of_length_le fewer]

/-- Settles O39: the count by complement, the refusal and the Event of such a code. -/
theorem codesOutsideTheSet : Obligations.CodesOutsideTheSet := by
  refine ⟨card_notMember, fun s r rest => step_request_badCode, fun s b rest w notMember taken window valid => ?_⟩
  have front : Frame.ofBytes (s.buf ++ [b]) = some w := window ▸ Frame.ofBytes_toBytes_append w []
  rw [step_of_validWindow taken front (w.valid_iff_fields.mpr valid), eventOf_notMember _ notMember, delivered,
    drop_nine_of_window window]
  rfl

end Sys2Proof.Machine

/-! PROOF. Unused payload bytes (30_encoding.md R57): the zero fill of a frame answered without the override, from the
encoding of the operation that answered it; and the bytes the two inbound layouts leave out. -/

namespace Sys2Proof

/-- The zero fill that R57 asks of an outbound frame, code by code. -/
def ZeroFilled (f : Frame) : Prop :=
  f.payload.p5 = 0 ∧
  (f.code ∈ [0x7D, 0x8D, 0xA0] → f.payload = ⟨0, 0, 0, 0, 0, 0⟩) ∧
  (f.code = 0x7E → f.payload.p3 = 0 ∧ f.payload.p4 = 0) ∧
  (f.code ∈ [0x79, 0x90, 0x91, 0x92, 0x93] → f.payload = ⟨f.payload.p0, 0, 0, 0, 0, 0⟩)

/-- A family code is the family's base and a block. -/
theorem familyCode_write_mem (off : BitVec 16) : familyCode 0x20 off ∈ writeFamily := by
  rw [familyCode]
  rcases block_cases (off.extractLsb' 8 2) with block | block | block | block <;> rw [block] <;> decide

theorem familyCode_read_mem (off : BitVec 16) : familyCode 0x24 off ∈ readFamily := by
  rw [familyCode]
  rcases block_cases (off.extractLsb' 8 2) with block | block | block | block <;> rw [block] <;> decide

/-- Format W leaves only `P[5]`, which no clause but the first speaks of. -/
theorem zeroFilled_write {c : Byte} (family : c ∈ writeFamily) (a : Args) :
    ZeroFilled (wireFrame c (writeFields a)) := by
  have noOther : ∀ c ∈ writeFamily, c ∉ [0x7D, 0x8D, 0xA0] ∧ c ≠ 0x7E ∧ c ∉ [0x79, 0x90, 0x91, 0x92, 0x93] := by
    decide
  obtain ⟨notConstant, notInterval, notRead⟩ := noOther c family
  exact ⟨rfl, fun h => absurd h notConstant, fun h => absurd h notInterval, fun h => absurd h notRead⟩

/-- Formats B and R leave all bytes but the first. -/
theorem zeroFilled_firstByte {c : Byte} (notConstant : c ∉ [0x7D, 0x8D, 0xA0]) (x : Byte) :
    ZeroFilled (wireFrame c ⟨x, 0, 0, 0, 0, 0⟩) :=
  ⟨rfl, fun h => absurd h notConstant, fun _ => ⟨rfl, rfl⟩, fun _ => rfl⟩

theorem zeroFilled_read {c : Byte} (family : c ∈ readFamily) (a : Args) :
    ZeroFilled (wireFrame c (readFields a)) := by
  have noOther : ∀ c ∈ readFamily, c ∉ [0x7D, 0x8D, 0xA0] := by decide
  exact zeroFilled_firstByte (noOther c family) _

/-- Format I leaves `P[3]` to `P[5]`, and its code is none of the others. -/
theorem zeroFilled_interval (x y : Byte) : ZeroFilled (wireFrame 0x7E ⟨0x02, x, y, 0, 0, 0⟩) := by
  have notConstant : (0x7E : Byte) ∉ [0x7D, 0x8D, 0xA0] := by decide
  have notRead : (0x7E : Byte) ∉ [0x79, 0x90, 0x91, 0x92, 0x93] := by decide
  exact ⟨rfl, fun h => absurd h notConstant, fun _ => ⟨rfl, rfl⟩, fun h => absurd h notRead⟩

/-- Format Z leaves every byte. -/
theorem zeroFilled_zero (c cs : Byte) : ZeroFilled ⟨0xFF, c, ⟨0, 0, 0, 0, 0, 0⟩, cs⟩ :=
  ⟨rfl, fun _ => rfl, fun _ => ⟨rfl, rfl⟩, fun _ => rfl⟩

/-- Every encoder operation but RAW has a zero-filled frame. -/
theorem zeroFilled_encode {i : Instr} (tx : i.direction = .tx) (notRaw : ∀ c v, i ≠ .raw c v) :
    ZeroFilled (encode i) := by
  cases i <;> simp only [Instr.direction, reduceCtorEq] at tx
  case toggleAbc => exact zeroFilled_firstByte (by decide) _
  case queryAbc | reset | queryFwVersion => exact zeroFilled_zero _ _
  case setInterval => exact zeroFilled_interval _ _
  case writeConfig a | writeConfigGeneric a => exact zeroFilled_write (familyCode_write_mem _) a
  case readConfig a | readConfigGeneric a => exact zeroFilled_read (familyCode_read_mem _) a
  case writeConfig1 a | writeConfig2 a | writeConfig3 a => exact zeroFilled_write (by decide) a
  case readConfig1 a | readConfig2 a | readConfig3 a => exact zeroFilled_read (by decide) a
  case raw c v => exact absurd rfl (notRaw c v)

/-- Without the override a request does not name RAW. -/
theorem decodeRequest_ne_raw {r : EncRequest} (plain : r.rawEn = false) (c : Byte) (v : BitVec 48) :
    decodeRequest r ≠ .ok (.raw c v) := by
  obtain ⟨code, a, rawEn, raw⟩ := r
  obtain rfl : rawEn = false := plain
  intro named
  cases member : isCode code with
  | false =>
    rw [decodeRequest_notMember member] at named
    cases named
  | true =>
    rcases isCode_cases member with rfl | rfl | rfl | rfl | rfl | rfl | rfl | rfl | rfl | rfl | rfl | rfl | rfl
    case inr.inr.inr.inl =>
      rcases genericRow_cases a .writeConfig .writeConfigGeneric with row | row <;>
        cases row.symm.trans (Except.ok.inj named)
    case inr.inr.inr.inr.inr.inr.inr.inr.inl =>
      rcases genericRow_cases a .readConfig .readConfigGeneric with row | row <;>
        cases row.symm.trans (Except.ok.inj named)
    all_goals cases named

end Sys2Proof

namespace Sys2Proof.Machine

open Sys2Proof.Machine.Claims

/-- An encoder operation that answers a frame answers its encoding. -/
theorem encode_of_exec_frame {i : Instr} {s t : State} {f : Frame} (tx : i.direction = .tx)
    (next : exec i s = .next t) (frame : t.enc = some (.frame f)) : f = encode i := by
  obtain ⟨accepted, refused⟩ := exec_tx_answersWhen i s tx
  cases wf : i.wf with
  | true =>
    cases next.symm.trans (accepted wf)
    simpa [answered, eq_comm] using frame
  | false =>
    obtain ⟨c, refusal⟩ := refused wf
    cases next.symm.trans refusal
    cases frame

/-- A frame answered to a request is the encoding of the operation it names. -/
theorem encode_of_step_frame {s t : State} {r : EncRequest} {rest : List Stimulus} {f : Frame}
    (taken : s.inbox = .request r :: rest) (next : step s = .next t) (frame : t.enc = some (.frame f)) :
    ∃ i, decodeRequest r = .ok i ∧ f = encode i := by
  have fetched := fetch_request taken
  rw [present] at fetched
  cases decoded : decodeRequest r with
  | ok i =>
    rw [decoded] at fetched
    rw [step_of_run fetched] at next
    exact ⟨i, rfl, encode_of_exec_frame (decodeRequest_direction decoded) next frame⟩
  | error e =>
    rw [decoded] at fetched
    cases (step_of_done fetched).symm.trans next
    cases frame

/-- Settles O40: outbound by the encoding of the named operation, inbound by what each field is computed from. -/
theorem unusedPayloadBytes : Obligations.UnusedPayloadBytes := by
  refine ⟨?outbound, ?abc, ?version⟩
  case outbound =>
    intro s t r rest f taken plain next frame
    obtain ⟨i, decoded, rfl⟩ := encode_of_step_frame taken next frame
    exact zeroFilled_encode (decodeRequest_direction decoded) fun c v raw =>
      decodeRequest_ne_raw plain c v (raw ▸ decoded)
  case abc =>
    intro w w' code code' same
    rw [eventOf_abc, eventOf_abc, if_pos code, if_pos code', abcStatus, abcStatus, same]
  case version =>
    intro w p4 p5 _
    have fourCharacters : versionOk { w.payload with p4 := p4, p5 := p5 } = versionOk w.payload := rfl
    simp only [eventOf_version, eventOf_parseError, fourCharacters, and_self]

end Sys2Proof.Machine

/-! PROOF. Words written out from the encodings and the test vectors (30_encoding.md R54; 95_test_vectors.md). -/

namespace Sys2Proof

/-- Settles O47: the decoders run on each word. -/
theorem decodedWords : Obligations.DecodedWords := by
  refine ⟨?_, ?_, ?_, ?_, ?_, ?_, ?_, ?_, ?_, ?_⟩ <;> decide

end Sys2Proof

/-! PROOF. `resolve_family` as equations on numbers (40_command_codes.md R73), from which its values, its inverse and
its bijectivity follow by arithmetic. -/

namespace Sys2Proof

/-- Three blocks above its base a family does not wrap. -/
theorem familyBase_add_toNat {g : Byte} {k : Nat} (generic : isGeneric g = true) (block : k ≤ 3) :
    (g + BitVec.ofNat 8 k).toNat = g.toNat + k := by
  have noWrap : g.toNat ≤ 0x90 := by rcases isGeneric_cases generic with rfl | rfl <;> decide
  rw [BitVec.toNat_add, BitVec.toNat_ofNat]
  omega

/-- A result of `resolve_family`, by the quotient and the remainder of its offset. -/
theorem resolveFamily_eq_some_iff {g c lo : Byte} {off : BitVec 16} (generic : isGeneric g = true) :
    resolveFamily g off = some (c, lo) ↔
      off.toNat ≤ 1023 ∧ c.toNat = g.toNat + off.toNat / 256 ∧ lo.toNat = off.toNat % 256 := by
  by_cases inRange : off.toNat ≤ 1023
  · have code := familyBase_add_toNat generic (k := off.toNat / 256) (by omega)
    rw [resolveFamily_inRange generic inRange, Option.some.injEq, Prod.mk.injEq, ← BitVec.toNat_inj,
      ← BitVec.toNat_inj, code, BitVec.toNat_ofNat]
    omega
  · simp [resolveFamily_outOfRange (Nat.lt_of_not_le inRange), inRange]

/-- The base of a family is its code without the two low bits. -/
theorem familyCode_and_eq_base {g c : Byte} (generic : isGeneric g = true) (above : g.toNat ≤ c.toNat)
    (below : c.toNat ≤ g.toNat + 3) : c &&& 0xFC = g := by
  obtain ⟨k, block, rfl⟩ : ∃ k, k ≤ 3 ∧ c = g + BitVec.ofNat 8 k := by
    have block : c.toNat - g.toNat ≤ 3 := by omega
    refine ⟨_, block, BitVec.eq_of_toNat_eq ?_⟩
    rw [familyBase_add_toNat generic block]
    omega
  rcases isGeneric_cases generic with rfl | rfl <;> interval_cases k <;> decide

/-- The base of a family is a multiple of four. -/
theorem familyBase_mod_four {g : Byte} (generic : isGeneric g = true) : g.toNat % 4 = 0 := by
  rcases isGeneric_cases generic with rfl | rfl <;> decide

/-- On its precondition `resolve_family` gives a member code, from which base and offset come back. -/
theorem resolveFamily_invertible {g c lo : Byte} {off : BitVec 16} (generic : isGeneric g = true)
    (resolved : resolveFamily g off = some (c, lo)) :
    c.toNat = g.toNat + off.toNat / 256 ∧ lo.toNat = off.toNat % 256 ∧ isCode c = true ∧
      (c.toNat % 4) * 256 + lo.toNat = off.toNat ∧ c &&& 0xFC = g := by
  obtain ⟨inRange, code, low⟩ := (resolveFamily_eq_some_iff generic).mp resolved
  have aligned := familyBase_mod_four generic
  have offset : (c.toNat % 4) * 256 + lo.toNat = off.toNat := by omega
  exact ⟨code, low, Machine.isCode_of_resolveFamily resolved, offset,
    familyCode_and_eq_base generic (by omega) (by omega)⟩

/-- A family code and a byte are the result of an offset. -/
theorem exists_resolveFamily_eq {g c : Byte} (lo : Byte) (generic : isGeneric g = true)
    (above : g.toNat ≤ c.toNat) (below : c.toNat ≤ g.toNat + 3) : ∃ off, resolveFamily g off = some (c, lo) := by
  refine ⟨BitVec.ofNat 16 ((c.toNat - g.toNat) * 256 + lo.toNat), (resolveFamily_eq_some_iff generic).mpr ?_⟩
  have := lo.isLt
  rw [BitVec.toNat_ofNat]
  omega

/-- Two offsets with one result are equal. -/
theorem resolveFamily_injective {g c lo : Byte} {off off' : BitVec 16} (generic : isGeneric g = true)
    (h : resolveFamily g off = some (c, lo)) (h' : resolveFamily g off' = some (c, lo)) : off = off' := by
  obtain ⟨-, -, -, offset, -⟩ := resolveFamily_invertible generic h
  obtain ⟨-, -, -, offset', -⟩ := resolveFamily_invertible generic h'
  exact BitVec.eq_of_toNat_eq (offset.symm.trans offset')

/-- Settles O35: values and inverse on the precondition, none outside, and each result of one offset. -/
theorem resolveFamilyIsBijective : Obligations.ResolveFamilyIsBijective := by
  intro g generic
  refine ⟨fun off inRange => ?values, fun off => resolveFamily_outOfRange, fun c lo above below => ?bijection⟩
  case values =>
    have resolved := resolveFamily_inRange generic inRange
    exact ⟨_, _, resolved, resolveFamily_invertible generic resolved⟩
  case bijection =>
    obtain ⟨off, resolved⟩ := exists_resolveFamily_eq lo generic above below
    obtain ⟨inRange, -⟩ := (resolveFamily_eq_some_iff generic).mp resolved
    exact ⟨off, inRange, resolved, fun off' resolved' => resolveFamily_injective generic resolved' resolved⟩

end Sys2Proof

/-! PROOF. The laws of the checksum (40_command_codes.md R75): it is the negated sum of the bytes at every accumulator
width from 8 up, and changes of a frame's bytes move the sum that validity asks to be zero. -/

namespace Sys2Proof

/-! ### The checksum is the negated sum -/

/-- The checksum depends on the sum mod 256 only. -/
theorem checksum_congr {b b' : List Byte} (same : byteSum b % 256 = byteSum b' % 256) : checksum b = checksum b' := by
  rw [checksum_eq_mod, checksum_eq_mod, same]

theorem byteSum_perm {b b' : List Byte} (h : b.Perm b') : byteSum b = byteSum b' :=
  (h.map BitVec.toNat).sum_eq

theorem checksum_eq_neg (b : List Byte) : checksum b = - BitVec.ofNat 8 (byteSum b) := by
  apply BitVec.eq_of_toNat_eq
  rw [checksum_toNat, BitVec.toNat_neg, BitVec.toNat_ofNat]

/-- An accumulator of any width holds the sum wrapped to that width. -/
theorem foldl_add_setWidth (width : Nat) (b : List Byte) (start : BitVec width) :
    b.foldl (fun acc x => acc + x.setWidth width) start = start + BitVec.ofNat width (byteSum b) := by
  induction b generalizing start with
  | nil => simp
  | cons x b ih =>
    rw [List.foldl_cons, ih, byteSum_cons, BitVec.ofNat_add, ← BitVec.add_assoc, BitVec.ofNat_toNat]

/-- Wrapping at eight bits or later gives the same checksum. -/
theorem checksum_eq_accumulator {width : Nat} (wide : 8 ≤ width) (b : List Byte) :
    checksum b = (- b.foldl (fun acc x => acc + x.setWidth width) (0 : BitVec width)).setWidth 8 := by
  rw [foldl_add_setWidth, zero_add, BitVec.setWidth_neg_of_le wide, BitVec.setWidth_ofNat_of_le wide,
    checksum_eq_neg]

/-! ### Changed bytes of a frame -/

/-- Validity by the sum of bytes 1 to 8 (30_encoding.md R51). -/
theorem Frame.valid_iff_tailSum (w : Frame) :
    w.valid = true ↔ w.hdr = 0xFF ∧ byteSum (w.toBytes.drop 1) % 256 = 0 :=
  (validIffTailSumsToZero w).2

/-- `byteSum_set` at a byte known by its lookup. -/
theorem byteSum_set_of_getElem? {l : List Byte} {i : Nat} {x : Byte} (at_i : l[i]? = some x) (v : Byte) :
    byteSum (l.set i v) + x.toNat = byteSum l + v.toNat := by
  obtain ⟨inBounds, rfl⟩ := List.getElem?_eq_some_iff.mp at_i
  exact byteSum_set l i v inBounds

/-- Another byte at one place leaves another sum mod 256. -/
theorem byteSum_set_mod_ne {l : List Byte} {i : Nat} {x v : Byte} (at_i : l[i]? = some x) (changed : x ≠ v) :
    byteSum (l.set i v) % 256 ≠ byteSum l % 256 := by
  have sum := byteSum_set_of_getElem? at_i v
  have := x.isLt
  have := v.isLt
  have : x.toNat ≠ v.toNat := fun same => changed (BitVec.eq_of_toNat_eq same)
  omega

/-- Two changes that cancel leave the sum mod 256. -/
theorem byteSum_set_set_mod {l : List Byte} {i j : Nat} {x y : Byte} (d : Byte) (distinct : i ≠ j)
    (at_i : l[i]? = some x) (at_j : l[j]? = some y) :
    byteSum ((l.set i (x + d)).set j (y - d)) % 256 = byteSum l % 256 := by
  have first := byteSum_set_of_getElem? at_i (x + d)
  have still : (l.set i (x + d))[j]? = some y := (List.getElem?_set_ne distinct).trans at_j
  have second := byteSum_set_of_getElem? still (y - d)
  rw [BitVec.toNat_add] at first
  rw [BitVec.toNat_sub] at second
  omega

/-- Law (d): one changed byte makes a valid frame invalid. -/
theorem Frame.invalid_of_oneChange {w w' : Frame} {i : Nat} {v : Byte} (valid : w.valid = true) (inTail : i < 8)
    (changed : (w.toBytes.drop 1)[i]? ≠ some v) (tail : w'.toBytes.drop 1 = (w.toBytes.drop 1).set i v) :
    w'.valid = false := by
  obtain ⟨-, zero⟩ := w.valid_iff_tailSum.mp valid
  have inBounds : i < (w.toBytes.drop 1).length := by rwa [List.length_drop, w.toBytes_length]
  have at_i := List.getElem?_eq_getElem inBounds
  have moved := byteSum_set_mod_ne (v := v) at_i fun same => changed (at_i.trans (congrArg some same))
  rw [← tail, zero] at moved
  rw [← Bool.not_eq_true, w'.valid_iff_tailSum]
  exact fun valid' => moved valid'.2

/-- Law (e): two changes that cancel leave a valid frame valid. -/
theorem Frame.valid_of_cancellingChanges {w w' : Frame} {i j : Nat} {x y d : Byte} (valid : w.valid = true)
    (header : w'.hdr = 0xFF) (distinct : i ≠ j) (at_i : (w.toBytes.drop 1)[i]? = some x)
    (at_j : (w.toBytes.drop 1)[j]? = some y)
    (tail : w'.toBytes.drop 1 = ((w.toBytes.drop 1).set i (x + d)).set j (y - d)) : w'.valid = true := by
  obtain ⟨-, zero⟩ := w.valid_iff_tailSum.mp valid
  refine w'.valid_iff_tailSum.mpr ⟨header, ?_⟩
  rw [tail, byteSum_set_set_mod d distinct at_i at_j, zero]

/-- Settles O37: each law by its lemma. -/
theorem checksumLaws : Obligations.ChecksumLaws :=
  ⟨checksum_toNat, fun b => (checksum_eq_iff b _).mp rfl, fun _ _ => checksum_congr,
    fun _ _ perm => checksum_congr (congrArg (· % 256) (byteSum_perm perm)),
    fun _ _ _ _ valid _ => Frame.invalid_of_oneChange valid,
    fun _ _ _ _ _ _ _ => Frame.valid_of_cancellingChanges,
    fun b => by simpa using checksum_eq_accumulator (width := 8) le_rfl b,
    checksum_eq_accumulator (by decide)⟩

end Sys2Proof

/-! PROOF. A step runs the decoded instruction (41_encoder.md R80; 42_decoder.md R112). -/

namespace Sys2Proof.Machine

open Sys2Proof.Machine.Claims

theorem step_of_decodeRequest {s : State} {r : EncRequest} {rest : List Stimulus} {i : Instr}
    (taken : s.inbox = .request r :: rest) (decoded : decodeRequest r = .ok i) :
    step s = exec i { s with inbox := rest } := by
  have fetched := fetch_request taken
  rw [present, decoded] at fetched
  exact step_of_run fetched

theorem step_of_decodeRequest_error {s : State} {r : EncRequest} {rest : List Stimulus} {e : DecodeError}
    (taken : s.inbox = .request r :: rest) (undecoded : decodeRequest r = .error e) :
    step s = .next (refusedWith .badCode { s with inbox := rest }) := by
  have fetched := fetch_request taken
  rw [present, undecoded] at fetched
  exact step_of_done fetched

theorem step_of_decodeRx {s : State} {b : Byte} {rest : List Stimulus} {i : Instr} (taken : s.inbox = rxEdge b :: rest)
    (decoded : decodeRx (s.buf ++ [b]) = .ok i) : step s = exec i { s with inbox := rest, buf := s.buf ++ [b] } := by
  have fetched := fetch_byte taken
  rw [receive, State.append_buf, decoded] at fetched
  exact step_of_run fetched

/-- Settles O17: what the fetch finds, by what the decoder of the stimulus answers. -/
theorem stepRunsDecodedInstruction : Obligations.StepRunsDecodedInstruction :=
  fun _ _ => ⟨fun _ _ => step_of_decodeRequest, fun _ _ => step_of_decodeRequest_error, fun _ _ => step_of_decodeRx⟩

end Sys2Proof.Machine

/-! PROOF. The frames of the encoder's commands, operand by operand, and their refusals (41_encoder.md R81 to R96): what
stands behind the count check, then the payload bytes of each layout. -/

namespace Sys2Proof

theorem layoutI_bytes (iv : BitVec 16) :
    layoutI iv = ⟨0x02, BitVec.ofNat 8 (iv.toNat / 256), BitVec.ofNat 8 (iv.toNat % 256), 0, 0, 0⟩ := by
  rw [highByte_eq, lowByte_eq]
  rfl

/-- An offset-low byte in the block `k` of its family, as an offset: within range, with quotient `k` and itself as the
remainder. -/
theorem blockOffset {base lo : BitVec 16} {k : Nat} (block : k ≤ 3) (start : base.toNat = k * 256)
    (low : lo.toNat ≤ 255) :
    (base + lo).toNat ≤ 1023 ∧ (base + lo).toNat / 256 = k ∧ (base + lo).toNat % 256 = lo.toNat := by
  rw [BitVec.toNat_add, start]
  omega

end Sys2Proof

namespace Sys2Proof.Machine

open Sys2Proof.Machine.Claims

/-! ### The three shapes of a command -/

/-- A command without a range check: its frame with the right count, `EE_ARGC` with any other. -/
theorem counted_spec {c : Byte} {n : BitVec 2} (count : argcReq c = some n) (a : Args) (p : Payload) (s : State) :
    (a.argc = n → requireArgc c a s (send c p s) = .next (answered (wireFrame c p) s)) ∧
    (a.argc ≠ n → requireArgc c a s (send c p s) = .next (refusedWith .argc s)) :=
  requireArgc_of_count count a s _

/-- A generic command: the frame of the code resolved by the offset, or one of the two refusals. -/
theorem resolved_spec {g : Byte} {n : BitVec 2} (count : argcReq g = some n) (generic : isGeneric g = true) (a : Args)
    (layout : Byte → Payload) (s : State) {r : Result}
    (meaning : r = requireArgc g a s (requireResolved g a s fun c lo => send c (layout lo) s)) :
    (a.argc = n → a.arg0.toNat ≤ 1023 → r = .next (answered
      (wireFrame (BitVec.ofNat 8 (g.toNat + a.arg0.toNat / 256)) (layout (BitVec.ofNat 8 (a.arg0.toNat % 256)))) s)) ∧
    (a.argc ≠ n → r = .next (refusedWith .argc s)) ∧
    (a.argc = n → 1023 < a.arg0.toNat → r = .next (refusedWith .range s)) := by
  obtain ⟨met, missed⟩ := requireArgc_of_count count a s (requireResolved g a s fun c lo => send c (layout lo) s)
  rw [meaning]
  refine ⟨fun right inRange => ?_, missed, fun right outOfRange => ?_⟩
  · rw [met right, requireResolved_inRange generic inRange, BitVec.ofNat_add, BitVec.ofNat_toNat, BitVec.setWidth_eq]
    rfl
  · rw [met right, requireResolved_outOfRange outOfRange]
    rfl

/-- A sub-code given directly: the frame of that code, or one of the two refusals. -/
theorem direct_spec {c : Byte} {n : BitVec 2} (count : argcReq c = some n) (a : Args) (layout : Byte → Payload)
    (s : State) {r : Result} (meaning : r = requireArgc c a s (requireOffsetLow a s fun lo => send c (layout lo) s)) :
    (a.argc = n → a.arg0.toNat ≤ 255 → r = .next (answered
      (wireFrame c (layout (BitVec.ofNat 8 a.arg0.toNat))) s)) ∧
    (a.argc ≠ n → r = .next (refusedWith .argc s)) ∧
    (a.argc = n → 255 < a.arg0.toNat → r = .next (refusedWith .range s)) := by
  obtain ⟨met, missed⟩ := requireArgc_of_count count a s (requireOffsetLow a s fun lo => send c (layout lo) s)
  rw [meaning]
  refine ⟨fun right inRange => ?_, missed, fun right outOfRange => ?_⟩
  · rw [met right, requireOffsetLow_inRange inRange, BitVec.ofNat_toNat]
    rfl
  · rw [met right, requireOffsetLow_outOfRange outOfRange]
    rfl

/-- The sub-code of the block `k` given directly does what the generic command does at that offset in that block. -/
theorem direct_eq_resolved {c g : Byte} {base : BitVec 16} {k : Nat} {n : BitVec 2} (generic : isGeneric g = true)
    (block : k ≤ 3) (start : base.toNat = k * 256) (code : c = BitVec.ofNat 8 (g.toNat + k))
    (count : argcReq c = some n) (countGeneric : argcReq g = some n) {a : Args} (right : a.argc = n)
    (low : a.arg0.toNat ≤ 255) (layout : Byte → Payload) (s : State) :
    requireArgc c a s (requireOffsetLow a s fun lo => send c (layout lo) s) =
      requireArgc g { a with arg0 := base + a.arg0 } s
        (requireResolved g { a with arg0 := base + a.arg0 } s fun c lo => send c (layout lo) s) := by
  obtain ⟨direct, -⟩ := direct_spec count a layout s rfl
  obtain ⟨resolved, -⟩ := resolved_spec countGeneric generic { a with arg0 := base + a.arg0 } layout s rfl
  obtain ⟨inRange, quotient, remainder⟩ := blockOffset block start low
  rw [direct right low, resolved right inRange, quotient, remainder, ← code]

/-! ### Commands without an offset -/

/-- Settles O1: format B by cases on `enc_arg0`, behind the count check. -/
theorem toggleAbcAnswers : Obligations.ToggleAbcAnswers := by
  intro a s
  have on : wireFrame 0x79 ⟨0xA0, 0, 0, 0, 0, 0⟩ = ⟨0xFF, 0x79, ⟨0xA0, 0, 0, 0, 0, 0⟩, 0xE7⟩ := by decide
  have off : wireFrame 0x79 ⟨0, 0, 0, 0, 0, 0⟩ = ⟨0xFF, 0x79, ⟨0, 0, 0, 0, 0, 0⟩, 0x87⟩ := by decide
  obtain ⟨frame, refusal⟩ := counted_spec argcReq_79 a (layoutB a.arg0) s
  refine ⟨fun one enabled => ?_, fun one disabled => ?_, refusal⟩
  · exact (frame one).trans (by rw [layoutB_eq, if_neg enabled, on])
  · exact (frame one).trans (by rw [layoutB_eq, if_pos disabled, off])

/-- A command of format Z, by its checksum. -/
theorem constantCommand {c cs : Byte} {mk : Args → Instr} (count : argcReq c = some 0)
    (sum : checksum (c :: layoutZ.toBytes) = cs)
    (meaning : ∀ a s, exec (mk a) s = requireArgc c a s (send c layoutZ s)) : ConstantCommand c cs mk := by
  intro a s
  rw [meaning, ← sum]
  exact counted_spec count a layoutZ s

/-- Settles O2: the three commands of format Z. -/
theorem constantCommandsAnswer : Obligations.ConstantCommandsAnswer :=
  ⟨constantCommand argcReq_7D (by decide) fun _ _ => rfl, constantCommand argcReq_8D (by decide) fun _ _ => rfl,
    constantCommand argcReq_A0 (by decide) fun _ _ => rfl⟩

/-- Settles O3: format I holds the quotient and the remainder of the interval by 256. -/
theorem setIntervalAnswers : Obligations.SetIntervalAnswers := by
  intro a s
  have command := counted_spec argcReq_7E a (layoutI a.arg0) s
  rw [layoutI_bytes] at command
  rw [exec, execSetInterval, layoutI_bytes]
  exact command

/-- Settles O7: by membership of the code. -/
theorem rawOverrideAnswers : Obligations.RawOverrideAnswers :=
  fun _ _ _ => ⟨fun member => if_pos member, fun notMember => if_neg (Bool.eq_false_iff.mp notMember)⟩

/-! ### Config-area commands -/

theorem genericWrite_spec {mk : Args → Instr} (meaning : ∀ a s, exec (mk a) s = genericWrite a s) :
    GenericWrite mk :=
  fun a s => resolved_spec argcReq_80 (by decide) a (fun lo => layoutW lo a.arg1) s (meaning a s)

theorem genericRead_spec {mk : Args → Instr} (meaning : ∀ a s, exec (mk a) s = genericRead a s) :
    GenericRead mk :=
  fun a s => resolved_spec argcReq_90 (by decide) a layoutR s (meaning a s)

/-- Settles O4: the generic commands and their pseudo-forms have one meaning per family. -/
theorem genericConfigCommandsAnswer : Obligations.GenericConfigCommandsAnswer :=
  ⟨genericWrite_spec fun _ _ => rfl, genericWrite_spec fun _ _ => rfl, genericRead_spec fun _ _ => rfl,
    genericRead_spec fun _ _ => rfl⟩

theorem directWrite_spec {c : Byte} {base : BitVec 16} {k : Nat} {mk : Args → Instr} (block : k ≤ 3)
    (start : base.toNat = k * 256) (code : c = BitVec.ofNat 8 (0x80 + k)) (count : argcReq c = some 2)
    (meaning : ∀ a s, exec (mk a) s = directWrite c a s) : DirectWrite c base mk := by
  intro a s
  obtain ⟨frame, refusals⟩ := direct_spec count a (fun lo => layoutW lo a.arg1) s (meaning a s)
  refine ⟨fun two low => ⟨frame two low, (meaning a s).trans ?_⟩, refusals⟩
  exact direct_eq_resolved (by decide) block start code count argcReq_80 two low (fun lo => layoutW lo a.arg1) s

theorem directRead_spec {c : Byte} {base : BitVec 16} {k : Nat} {mk : Args → Instr} (block : k ≤ 3)
    (start : base.toNat = k * 256) (code : c = BitVec.ofNat 8 (0x90 + k)) (count : argcReq c = some 1)
    (meaning : ∀ a s, exec (mk a) s = directRead c a s) : DirectRead c base mk := by
  intro a s
  obtain ⟨frame, refusals⟩ := direct_spec count a layoutR s (meaning a s)
  refine ⟨fun one low => ⟨frame one low, (meaning a s).trans ?_⟩, refusals⟩
  exact direct_eq_resolved (by decide) block start code count argcReq_90 one low layoutR s

/-- Settles O5: the write sub-codes by their blocks 1, 2 and 3. -/
theorem directWritesAnswer : Obligations.DirectWritesAnswer :=
  ⟨directWrite_spec (k := 1) (by decide) rfl rfl argcReq_81 fun _ _ => rfl,
    directWrite_spec (k := 2) (by decide) rfl rfl argcReq_82 fun _ _ => rfl,
    directWrite_spec (k := 3) (by decide) rfl rfl argcReq_83 fun _ _ => rfl⟩

/-- Settles O6: the read sub-codes by their blocks 1, 2 and 3. -/
theorem directReadsAnswer : Obligations.DirectReadsAnswer :=
  ⟨directRead_spec (k := 1) (by decide) rfl rfl argcReq_91 fun _ _ => rfl,
    directRead_spec (k := 2) (by decide) rfl rfl argcReq_92 fun _ _ => rfl,
    directRead_spec (k := 3) (by decide) rfl rfl argcReq_93 fun _ _ => rfl⟩

end Sys2Proof.Machine

/-! PROOF. The encoder is the spec's whole algorithm (41_encoder.md R80): each check of a meaning is a step of it. -/

namespace Sys2Proof

/-- The codes that carry an offset are members (40_command_codes.md R72). -/
theorem isCode_of_configArea {c : Byte} (h : (writeFamily.contains c || readFamily.contains c) = true) :
    isCode c = true := by
  have members : ∀ c ∈ writeFamily ++ readFamily, isCode c = true := by decide
  exact members c (by simpa using h)

theorem mem_writeFamily_of_resolveFamily {c lo : Byte} {off : BitVec 16} (h : resolveFamily 0x80 off = some (c, lo)) :
    c ∈ writeFamily := by
  obtain ⟨inRange, code, low⟩ := (resolveFamily_eq_some_iff (by decide)).mp h
  exact Machine.CarriesOffset.mem_writeFamily ⟨inRange, code, low⟩

theorem mem_readFamily_of_resolveFamily {c lo : Byte} {off : BitVec 16} (h : resolveFamily 0x90 off = some (c, lo)) :
    c ∈ readFamily := by
  obtain ⟨inRange, code, low⟩ := (resolveFamily_eq_some_iff (by decide)).mp h
  exact Machine.CarriesOffset.mem_readFamily ⟨inRange, code, low⟩

end Sys2Proof

namespace Sys2Proof.Machine

/-! ### The algorithm by the kind of its code -/

theorem encodeSpec_badCode {r : EncRequest} (notMember : isCode r.code = false) :
    encodeSpec r = .refusal .badCode := by
  rw [encodeSpec, notMember]
  rfl

theorem encodeSpec_raw {c : Byte} (member : isCode c = true) (a : Args) (v : BitVec 48) :
    encodeSpec ⟨c, a, true, v⟩ = .frame (assemble c (layoutX v)) := by
  simp [encodeSpec, member]

/-- A generic code is resolved by its offset. -/
theorem encodeSpec_generic {g : Byte} (generic : isGeneric g = true) (a : Args) (v : BitVec 48) :
    encodeSpec ⟨g, a, false, v⟩ = if argcReq g ≠ some a.argc then .refusal .argc else
      (resolveFamily g a.arg0).elim (.refusal .range) fun resolved =>
        .frame (assemble resolved.1 (payloadOf resolved.1 resolved.2 a)) := by
  have member : isCode g = true := by rcases isGeneric_cases generic with rfl | rfl <;> decide
  rw [encodeSpec, if_neg (by simp [member]), if_neg (by simp), if_pos generic]
  cases resolveFamily g a.arg0 <;> rfl

/-- A sub-code given directly takes an offset-low byte. -/
theorem encodeSpec_direct {c : Byte} (configArea : (writeFamily.contains c || readFamily.contains c) = true)
    (concrete : isGeneric c = false) (a : Args) (v : BitVec 48) :
    encodeSpec ⟨c, a, false, v⟩ = if argcReq c ≠ some a.argc then .refusal .argc else
      if 255 < a.arg0.toNat then .refusal .range else
        .frame (assemble c (payloadOf c (a.arg0.setWidth 8) a)) := by
  simp only [encodeSpec, isCode_of_configArea configArea, configArea, concrete, Bool.true_and, decide_eq_true_eq,
    Bool.not_true, Bool.false_eq_true, if_false]

/-- The other commands have no range check. -/
theorem encodeSpec_plain {c : Byte} (member : isCode c = true)
    (notConfigArea : (writeFamily.contains c || readFamily.contains c) = false) (concrete : isGeneric c = false)
    (a : Args) (v : BitVec 48) :
    encodeSpec ⟨c, a, false, v⟩ = if argcReq c ≠ some a.argc then .refusal .argc else
      .frame (assemble c (payloadOf c (a.arg0.setWidth 8) a)) := by
  simp only [encodeSpec, member, notConfigArea, concrete, Bool.false_and, Bool.not_true, Bool.false_eq_true, if_false]

theorem payloadOf_write {c : Byte} (family : c ∈ writeFamily) (lo : Byte) (a : Args) :
    payloadOf c lo a = layoutW lo a.arg1 := by
  have branch : ∀ c ∈ writeFamily, c ≠ 0x79 ∧ c ≠ 0x7E ∧ writeFamily.contains c = true := by decide
  obtain ⟨not79, not7E, write⟩ := branch c family
  rw [payloadOf, if_neg not79, if_neg not7E, if_pos write]

theorem payloadOf_read {c : Byte} (family : c ∈ readFamily) (lo : Byte) (a : Args) :
    payloadOf c lo a = layoutR lo := by
  have branch : ∀ c ∈ readFamily,
      c ≠ 0x79 ∧ c ≠ 0x7E ∧ ¬ writeFamily.contains c = true ∧ readFamily.contains c = true := by decide
  obtain ⟨not79, not7E, notWrite, read⟩ := branch c family
  rw [payloadOf, if_neg not79, if_neg not7E, if_neg notWrite, if_pos read]

/-! ### The checks of a meaning as steps of the algorithm -/

/-- A result that is the given state with the answer `x` on the encoder's ports. -/
abbrev Answers (s : State) (r : Result) (x : EncResult) : Prop := r = .next { s with enc := some x }

/-- Step 3 of R80. -/
theorem requireArgc_answers {code : Byte} {a : Args} {s : State} {go : Result} {x : EncResult} (h : Answers s go x) :
    Answers s (requireArgc code a s go) (if argcReq code ≠ some a.argc then .refusal .argc else x) := by
  by_cases count : argcReq code = some a.argc
  · rwa [requireArgc_met count, if_neg (not_not.mpr count)]
  · rw [requireArgc_missed count, if_pos count]
    rfl

/-- Step 4 of R80 for a sub-code given directly. -/
theorem requireOffsetLow_answers {a : Args} {s : State} {go : Byte → Result} {x : EncResult}
    (h : Answers s (go (a.arg0.setWidth 8)) x) :
    Answers s (requireOffsetLow a s go) (if 255 < a.arg0.toNat then .refusal .range else x) := by
  by_cases high : 255 < a.arg0.toNat
  · rw [requireOffsetLow_outOfRange high, if_pos high]
    rfl
  · rwa [requireOffsetLow_inRange (Nat.not_lt.mp high), if_neg high]

/-- Step 4 of R80 for a generic code. -/
theorem requireResolved_answers {g : Byte} {a : Args} {s : State} {go : Byte → Byte → Result}
    {x : Byte × Byte → EncResult}
    (h : ∀ c lo, resolveFamily g a.arg0 = some (c, lo) → Answers s (go c lo) (x (c, lo))) :
    Answers s (requireResolved g a s go) ((resolveFamily g a.arg0).elim (.refusal .range) x) := by
  unfold requireResolved
  split
  next c lo resolved =>
    rw [resolved]
    exact h c lo resolved
  next unresolved =>
    rw [unresolved]
    rfl

/-! ### The meanings -/

theorem genericWrite_answers (a : Args) (v : BitVec 48) (s : State) :
    Answers s (genericWrite a s) (encodeSpec ⟨0x80, a, false, v⟩) := by
  rw [encodeSpec_generic (by decide)]
  refine requireArgc_answers (requireResolved_answers fun c lo resolved => ?_)
  rw [payloadOf_write (mem_writeFamily_of_resolveFamily resolved)]
  rfl

theorem genericRead_answers (a : Args) (v : BitVec 48) (s : State) :
    Answers s (genericRead a s) (encodeSpec ⟨0x90, a, false, v⟩) := by
  rw [encodeSpec_generic (by decide)]
  refine requireArgc_answers (requireResolved_answers fun c lo resolved => ?_)
  rw [payloadOf_read (mem_readFamily_of_resolveFamily resolved)]
  rfl

theorem directWrite_answers {c : Byte} (family : c ∈ writeFamily) (concrete : isGeneric c = false) (a : Args)
    (v : BitVec 48) (s : State) : Answers s (directWrite c a s) (encodeSpec ⟨c, a, false, v⟩) := by
  rw [encodeSpec_direct (by simp [family]) concrete, payloadOf_write family]
  exact requireArgc_answers (requireOffsetLow_answers rfl)

theorem directRead_answers {c : Byte} (family : c ∈ readFamily) (concrete : isGeneric c = false) (a : Args)
    (v : BitVec 48) (s : State) : Answers s (directRead c a s) (encodeSpec ⟨c, a, false, v⟩) := by
  rw [encodeSpec_direct (by simp [family]) concrete, payloadOf_read family]
  exact requireArgc_answers (requireOffsetLow_answers rfl)

/-- A command without a range check, whose payload is that of its code. -/
theorem plain_answers {c : Byte} {p : Payload} {a : Args} (member : isCode c = true)
    (notConfigArea : (writeFamily.contains c || readFamily.contains c) = false) (concrete : isGeneric c = false)
    (payload : payloadOf c (a.arg0.setWidth 8) a = p) (v : BitVec 48) (s : State) :
    Answers s (requireArgc c a s (send c p s)) (encodeSpec ⟨c, a, false, v⟩) := by
  rw [encodeSpec_plain member notConfigArea concrete, payload]
  exact requireArgc_answers rfl

theorem execRaw_answers {c : Byte} (member : isCode c = true) (a : Args) (v : BitVec 48) (s : State) :
    Answers s (execRaw c v s) (encodeSpec ⟨c, a, true, v⟩) := by
  rw [encodeSpec_raw member, execRaw, if_pos member]
  rfl

/-- Without the override a member code names an operation that answers as the algorithm does. -/
theorem decodeRequest_answers {c : Byte} (member : isCode c = true) (a : Args) (v : BitVec 48) (s : State) :
    ∃ i, decodeRequest ⟨c, a, false, v⟩ = .ok i ∧ Answers s (exec i s) (encodeSpec ⟨c, a, false, v⟩) := by
  rcases isCode_cases member with rfl | rfl | rfl | rfl | rfl | rfl | rfl | rfl | rfl | rfl | rfl | rfl | rfl
  · exact ⟨.toggleAbc a, rfl, plain_answers member (by decide) (by decide) rfl v s⟩
  · exact ⟨.queryAbc a, rfl, plain_answers member (by decide) (by decide) rfl v s⟩
  · exact ⟨.setInterval a, rfl, plain_answers member (by decide) (by decide) rfl v s⟩
  · refine ⟨genericRow a .writeConfig .writeConfigGeneric, rfl, ?_⟩
    rcases genericRow_cases a .writeConfig .writeConfigGeneric with row | row <;>
      (rw [row]; exact genericWrite_answers a v s)
  · exact ⟨.writeConfig1 a, rfl, directWrite_answers (by decide) (by decide) a v s⟩
  · exact ⟨.writeConfig2 a, rfl, directWrite_answers (by decide) (by decide) a v s⟩
  · exact ⟨.writeConfig3 a, rfl, directWrite_answers (by decide) (by decide) a v s⟩
  · exact ⟨.reset a, rfl, plain_answers member (by decide) (by decide) rfl v s⟩
  · refine ⟨genericRow a .readConfig .readConfigGeneric, rfl, ?_⟩
    rcases genericRow_cases a .readConfig .readConfigGeneric with row | row <;>
      (rw [row]; exact genericRead_answers a v s)
  · exact ⟨.readConfig1 a, rfl, directRead_answers (by decide) (by decide) a v s⟩
  · exact ⟨.readConfig2 a, rfl, directRead_answers (by decide) (by decide) a v s⟩
  · exact ⟨.readConfig3 a, rfl, directRead_answers (by decide) (by decide) a v s⟩
  · exact ⟨.queryFwVersion a, rfl, plain_answers member (by decide) (by decide) rfl v s⟩

/-- Settles O30: a code outside the set is refused, RAW sends its bytes, and a member code names an operation whose
checks are steps 3 and 4 of the algorithm. -/
theorem encoderIsTheSpecAlgorithm : Obligations.EncoderIsTheSpecAlgorithm := by
  intro s r rest taken
  cases member : isCode r.code with
  | false =>
    rw [step_request_badCode member taken, encodeSpec_badCode member]
    rfl
  | true =>
    obtain ⟨c, a, rawEn, v⟩ := r
    cases rawEn with
    | true => exact (step_of_decodeRequest taken (decodeRequest_raw c a v)).trans (execRaw_answers member a v _)
    | false =>
      obtain ⟨i, decoded, answers⟩ := decodeRequest_answers member a v { s with inbox := rest }
      exact (step_of_decodeRequest taken decoded).trans answers

end Sys2Proof.Machine

/-! PROOF. Answered frames are valid (41_encoder.md R94), and a frame fed to an empty decoder gives its Event (R98). -/

namespace Sys2Proof.Machine

open Sys2Proof.Machine.Claims

/-- A frame answered to a request is valid and has a member code; the buffer and the sink stay. -/
theorem step_request_frame {s t : State} {r : EncRequest} {rest : List Stimulus} {f : Frame}
    (taken : s.inbox = .request r :: rest) (next : step s = .next t) (frame : t.enc = some (.frame f)) :
    f.valid = true ∧ isCode f.code = true ∧ t.buf = s.buf ∧ t.sink = s.sink := by
  obtain ⟨x, wellFormed, outcome⟩ := step_request_answersWellFormed taken
  cases outcome.symm.trans next
  obtain rfl : x = .frame f := Option.some.inj frame
  obtain ⟨valid, member⟩ := wellFormed
  exact ⟨valid, member, rfl, rfl⟩

/-- Settles O32: the frame is valid with a member code, and a valid window is decoded. -/
theorem answeredFramesAreValid : Obligations.AnsweredFramesAreValid := by
  intro s t r rest f taken next frame
  obtain ⟨valid, member, -, -⟩ := step_request_frame taken next frame
  obtain ⟨header, sum⟩ := f.valid_iff_fields.mp valid
  exact ⟨f.toBytes_length, header, member, sum.symm, _, decodeRx_of_valid rfl valid⟩

/-- `feed` of one valid frame from an empty buffer. -/
theorem feed_frame (idx : Fin 6) {f : Frame} (valid : f.valid = true) :
    feed idx [] f.toBytes = ([], [eventOf idx f]) := by
  have buffered : feed idx [] f.toBytes = feed idx f.toBytes [] := rfl
  have consumed : f.toBytes.drop 9 = [] := rfl
  rw [buffered, feed_accept idx rfl valid, consumed, feed_rest idx (buf := []) (Nat.zero_le 8)]

/-- The nine bytes of a valid frame, received by an empty decoder, deliver its Event and leave the buffer empty. -/
theorem run_frame {s : State} {f : Frame} (empty : s.buf = []) (valid : f.valid = true) :
    ∃ u, Host.Core.run Sys2Proof.core 9 { s with inbox := f.toBytes.map rxEdge } = .next u ∧ u.buf = [] ∧
      u.sink = s.sink ++ [eventOf Config.abcIdx f] := by
  obtain ⟨u, run, -, buf, sink⟩ := machineRunIsFeed { s with inbox := f.toBytes.map rxEdge }
    (by simp [empty]) (noReset_map _)
  simp only [rxBytes_map, empty, feed_frame _ valid] at buf sink
  exact ⟨u, run, buf, sink⟩

theorem notAsciiVersion_iff (f : Frame) : NotAsciiVersion f ↔ f.code = 0xA0 ∧ versionOk f.payload = false := by
  simp [NotAsciiVersion, Payload.toBytes, versionOk_eq_false_iff]

/-- A member code has no other parse error than the version's. -/
theorem eventOf_parseError_eq_none_iff (idx : Fin 6) {w : Frame} (member : isCode w.code = true) :
    (eventOf idx w).parseError = none ↔ ¬ NotAsciiVersion w := by
  rw [notAsciiVersion_iff, eventOf_parseError]
  simp [member]

/-- Only the override builds a version frame with a byte outside ASCII (41_encoder.md R98). -/
theorem rawEn_of_notAsciiVersion {s t : State} {r : EncRequest} {rest : List Stimulus} {f : Frame}
    (taken : s.inbox = .request r :: rest) (next : step s = .next t) (frame : t.enc = some (.frame f))
    (notAscii : NotAsciiVersion f) : r.rawEn = true := by
  by_contra plain
  obtain ⟨code, notOk⟩ := (notAsciiVersion_iff f).mp notAscii
  obtain ⟨-, constant, -, -⟩ := unusedPayloadBytes.1 s t r rest f taken (Bool.eq_false_iff.mpr plain) next frame
  rw [constant (by simp [code])] at notOk
  exact absurd notOk (by decide)

/-- Settles O45: the frame is valid, so an empty decoder delivers `event_of` of it, whose fields follow its code. -/
theorem encodeDecodeRoundTrip : Obligations.EncodeDecodeRoundTrip := by
  intro s t r rest f taken empty next frame
  obtain ⟨valid, member, buf, sink⟩ := step_request_frame taken next frame
  obtain ⟨u, run, left, delivery⟩ := run_frame (buf.trans empty) valid
  rw [sink] at delivery
  refine ⟨u, eventOf Config.abcIdx f, run, left, delivery, eventOf_code _ f, eventOf_raw _ f, eventOf_checksum _ f,
    (eventOf_notAscii_iff _ f).trans (notAsciiVersion_iff f).symm, eventOf_parseError_eq_none_iff _ member,
    ?notAscii, ?abc, ?version⟩
  case notAscii =>
    intro notAscii
    refine ⟨rawEn_of_notAsciiVersion taken next frame notAscii, ?_⟩
    obtain ⟨-, notOk⟩ := (notAsciiVersion_iff f).mp notAscii
    rw [eventOf_version, if_neg (by simp [notOk])]
  case abc =>
    intro code
    rw [eventOf_abc, if_pos code, abcStatus]
  case version =>
    intro code ascii
    have ok : versionOk f.payload = true := by
      by_contra notOk
      exact ascii ((notAsciiVersion_iff f).mpr ⟨code, Bool.eq_false_iff.mpr notOk⟩)
    rw [eventOf_version, if_pos ⟨code, ok⟩]

end Sys2Proof.Machine

/-! PROOF. The encoder is pure (41_encoder.md R99): its answer is the algorithm's, and what an edge does depends neither
on the encoder's ports nor on what else is waiting. -/

namespace Sys2Proof.Machine

theorem run_two {s t u : State} (first : step s = .next t) (second : step t = .next u) :
    Host.Core.run Sys2Proof.core 2 s = .next u :=
  (run_of_step first).trans (run_of_step second)

/-- A request presented next is answered by the algorithm. -/
theorem step_requestPresented (s : State) (r : EncRequest) (rest : List Stimulus) :
    step { s with inbox := .request r :: rest } = .next { s with enc := some (encodeSpec r), inbox := rest } :=
  encoderIsTheSpecAlgorithm _ r rest rfl

/-- An edge makes one buffer, one Event output and one sink of a state, whatever the encoder's ports hold and whatever
is to come. -/
theorem step_edgePresented (s : State) (rst v : Bool) (b : Byte) :
    ∃ buf ev sink, ∀ enc rest,
      step { s with enc := enc, inbox := .edge rst v b :: rest } = .next ⟨buf, ev, enc, sink, rest⟩ := by
  have taken (enc : Option EncResult) (rest : List Stimulus) :
      ({ s with enc := enc, inbox := .edge rst v b :: rest } : State).inbox = .edge rst v b :: rest := rfl
  cases rst with
  | true => exact ⟨[], none, s.sink, fun enc rest => step_of_done (fetch_edge (taken enc rest))⟩
  | false =>
    cases v with
    | false => exact ⟨s.buf, none, s.sink, fun enc rest => step_of_done (fetch_edge (taken enc rest))⟩
    | true =>
      by_cases short : s.buf.length < 8
      · exact ⟨s.buf ++ [b], none, s.sink, fun enc rest =>
          step_of_done ((fetch_byte (taken enc rest)).trans (receive_short short))⟩
      · obtain ⟨w, front⟩ := Frame.ofBytes_long (b := s.buf ++ [b]) (by simp; omega)
        cases valid : w.valid with
        | true =>
          exact ⟨(s.buf ++ [b]).drop 9, some (eventOf Config.abcIdx w), s.sink ++ [eventOf Config.abcIdx w],
            fun enc rest => step_of_validWindow (taken enc rest) front valid⟩
        | false =>
          exact ⟨(s.buf ++ [b]).drop 1, none, s.sink, fun enc rest =>
            step_of_done ((fetch_byte (taken enc rest)).trans (receive_invalid front valid))⟩

/-- Settles O34: both answers are the algorithm's, the second answer is the first, and an edge carries the encoder's
ports through. -/
theorem encoderIsPure : Obligations.EncoderIsPure := by
  refine ⟨?function, fun s r rest => ?idempotent, fun s r rst v b rest => ?commute⟩
  case function =>
    intro s s' t t' r rest rest' taken taken' next next'
    cases (encoderIsTheSpecAlgorithm s r rest taken).symm.trans next
    cases (encoderIsTheSpecAlgorithm s' r rest' taken').symm.trans next'
    rfl
  case idempotent =>
    have once : Host.Core.run Sys2Proof.core 1 { s with inbox := .request r :: rest } =
      .next { s with enc := some (encodeSpec r), inbox := rest } := run_of_step (step_requestPresented s r rest)
    have again := step_requestPresented { s with enc := some (encodeSpec r) } r rest
    exact (run_two (step_requestPresented s r _) again).trans once.symm
  case commute =>
    obtain ⟨buf, ev, sink, edge⟩ := step_edgePresented s rst v b
    have requestFirst := run_two (step_requestPresented s r _) (edge (some (encodeSpec r)) rest)
    have edgeFirst := run_two (edge s.enc _) (step_requestPresented ⟨buf, ev, s.enc, sink, []⟩ r rest)
    exact requestFirst.trans edgeFirst.symm

end Sys2Proof.Machine

/-! PROOF. `feed` one byte at a time (42_decoder.md R111, R126, R127, R128): what one byte makes of a buffer at rest,
whatever comes after it; from that what a whole chunk leaves and delivers, and how chunks follow one another. -/

namespace Sys2Proof.Machine

open Sys2Proof.Machine.Claims

/-- One byte takes a buffer at rest to a buffer at rest and emits its Events before those of the rest of the chunk; an
Event costs nine bytes. -/
theorem feed_byte (idx : Fin 6) {buf : List Byte} (bound : buf.length ≤ 8) (b : Byte) :
    ∃ left events, left.length ≤ 8 ∧ left.length + 9 * events.length ≤ buf.length + 1 ∧
      ∀ chunk, feed idx buf (b :: chunk) = ((feed idx left chunk).1, events ++ (feed idx left chunk).2) := by
  have length : (buf ++ [b]).length = buf.length + 1 := List.length_append
  by_cases short : buf.length < 8
  · exact ⟨buf ++ [b], [], by omega, by simp, feed_fill idx buf b⟩
  · obtain ⟨w, front⟩ := Frame.ofBytes_long (b := buf ++ [b]) (by omega)
    cases valid : w.valid with
    | true =>
      have left : ((buf ++ [b]).drop 9).length = 0 := by rw [List.length_drop]; omega
      refine ⟨(buf ++ [b]).drop 9, [eventOf idx w], by omega, ?_, fun chunk => ?_⟩
      · rw [List.length_singleton]
        omega
      · rw [feed_fill, feed_accept idx front valid, List.singleton_append]
    | false =>
      have left : ((buf ++ [b]).drop 1).length = 8 := by rw [List.length_drop]; omega
      refine ⟨(buf ++ [b]).drop 1, [], by omega, by rw [List.length_nil]; omega, fun chunk => ?_⟩
      rw [feed_fill, feed_slide idx front valid, List.nil_append]

/-- `feed` of a sequence is `feed` of its first part, then of its second (42_decoder.md R127). -/
theorem feed_append (idx : Fin 6) {buf : List Byte} (bound : buf.length ≤ 8) (s t : List Byte) :
    feed idx buf (s ++ t) =
      ((feed idx (feed idx buf s).1 t).1, (feed idx buf s).2 ++ (feed idx (feed idx buf s).1 t).2) := by
  induction s generalizing buf with
  | nil => rw [feed_rest idx bound, List.nil_append, List.nil_append]
  | cons b s ih =>
    obtain ⟨left, events, rest, -, byte⟩ := feed_byte idx bound b
    rw [List.cons_append, byte, byte, ih rest, List.append_assoc]

/-- `feed` from a buffer at rest ends at rest, and every Event it emits costs nine bytes (42_decoder.md R126). -/
theorem feed_length (idx : Fin 6) {buf : List Byte} (bound : buf.length ≤ 8) (chunk : List Byte) :
    (feed idx buf chunk).1.length ≤ 8 ∧
      (feed idx buf chunk).1.length + 9 * (feed idx buf chunk).2.length ≤ buf.length + chunk.length := by
  induction chunk generalizing buf with
  | nil =>
    rw [feed_rest idx bound]
    exact ⟨bound, le_rfl⟩
  | cons b chunk ih =>
    obtain ⟨left, events, rest, cost, byte⟩ := feed_byte idx bound b
    obtain ⟨atRest, bytes⟩ := ih rest
    simp only [byte, List.length_append, List.length_cons]
    exact ⟨atRest, by omega⟩

/-- Only the bytes matter to `feed`, not which of them are waiting in the buffer already. -/
theorem feed_eq_feed_nil (idx : Fin 6) (buf chunk : List Byte) : feed idx buf chunk = feed idx [] (buf ++ chunk) := rfl

/-- Fewer than nine bytes received by an empty buffer only fill it. -/
theorem feed_nil_of_short (idx : Fin 6) {l : List Byte} (short : l.length ≤ 8) : feed idx [] l = (l, []) :=
  feedLoop_short idx _ (by rw [List.nil_append]; omega)

/-- Garbage in which no valid window starts is discarded byte by byte (42_decoder.md R115, R128). -/
theorem feed_discards (idx : Fin 6) {g l : List Byte} (enough : 8 ≤ l.length)
    (invalid : ∀ i, i < g.length → ∀ w, Frame.ofBytes ((g ++ l).drop i) = some w → w.valid = false) :
    feed idx [] (g ++ l) = feed idx [] l := by
  induction g with
  | nil => rfl
  | cons b g ih =>
    obtain ⟨w, front⟩ := Frame.ofBytes_long (b := b :: g ++ l) (by simp; omega)
    have first : w.valid = false := invalid 0 (Nat.succ_pos _) w front
    have later : ∀ i, i < g.length → ∀ w, Frame.ofBytes ((g ++ l).drop i) = some w → w.valid = false :=
      fun i inside => invalid (i + 1) (Nat.succ_lt_succ inside)
    exact (feedLoop_invalid idx _ front first).trans (ih later)

/-- Settles O42: all the bytes are fed to an empty buffer, and as many iterations as bytes are enough. -/
theorem feedTerminates : Obligations.FeedTerminates := by
  intro idx buf chunk
  refine ⟨?_, fun n => feedLoop_of_length_le idx⟩
  rw [feed_eq_feed_nil]
  exact (feed_length idx (buf := []) (Nat.zero_le 8) _).1

end Sys2Proof.Machine

/-! PROOF. The byte step (42_decoder.md R112, R114 to R116) and a run over the bytes of a chunk, which is `feed` of them
(R127): fragmentation, recovery after garbage, and the distance between Events. -/

namespace Sys2Proof.Machine

open Sys2Proof.Machine.Claims

/-- FILL: below eight bytes the byte waits (42_decoder.md R114). -/
theorem step_fills {s : State} {b : Byte} {rest : List Stimulus} (taken : s.inbox = rxEdge b :: rest)
    (short : s.buf.length < 8) : step s = .next { s with buf := s.buf ++ [b], ev := none, inbox := rest } :=
  step_of_done ((fetch_byte taken).trans (receive_short short))

/-- SLIDE: a byte that completes an invalid window costs the oldest byte (42_decoder.md R115). -/
theorem step_slides {s : State} {b : Byte} {rest : List Stimulus} {w : Frame} (taken : s.inbox = rxEdge b :: rest)
    (front : Frame.ofBytes (s.buf ++ [b]) = some w) (invalid : w.valid = false) :
    step s = .next { s with buf := (s.buf ++ [b]).drop 1, ev := none, inbox := rest } :=
  step_of_done ((fetch_byte taken).trans (receive_invalid front invalid))

/-- A received byte leaves the buffer and delivers the Events of `feed` of that byte. -/
theorem step_byte_feeds {s : State} {b : Byte} {rest : List Stimulus} (bound : s.buf.length ≤ 8)
    (taken : s.inbox = rxEdge b :: rest) :
    ∃ t, step s = .next t ∧ t.inbox = rest ∧ t.buf = (feed Config.abcIdx s.buf [b]).1 ∧
      t.sink = s.sink ++ (feed Config.abcIdx s.buf [b]).2 := by
  have length : (s.buf ++ [b]).length = s.buf.length + 1 := List.length_append
  have shorter (k : Nat) (removes : 1 ≤ k) : ((s.buf ++ [b]).drop k).length ≤ 8 := by
    rw [List.length_drop]
    omega
  by_cases short : s.buf.length < 8
  · refine ⟨_, step_fills taken short, rfl, ?_⟩
    rw [feed_fill, feed_rest _ (by omega)]
    exact ⟨rfl, (List.append_nil _).symm⟩
  · obtain ⟨w, front⟩ := Frame.ofBytes_long (b := s.buf ++ [b]) (by omega)
    cases valid : w.valid with
    | true =>
      refine ⟨_, step_of_validWindow taken front valid, rfl, ?_⟩
      rw [feed_fill, feed_accept _ front valid, feed_rest _ (shorter 9 (by omega))]
      exact ⟨rfl, rfl⟩
    | false =>
      refine ⟨_, step_slides taken front valid, rfl, ?_⟩
      rw [feed_fill, feed_slide _ front valid, feed_rest _ (shorter 1 le_rfl)]
      exact ⟨rfl, (List.append_nil _).symm⟩

/-- A run over the bytes of a chunk, whatever is to come after it, is `feed` of the chunk (42_decoder.md R127). -/
theorem run_bytes {s : State} {c : List Byte} {rest : List Stimulus} (bound : s.buf.length ≤ 8)
    (inbox : s.inbox = c.map rxEdge ++ rest) :
    ∃ t, Host.Core.run Sys2Proof.core c.length s = .next t ∧ t.inbox = rest ∧
      t.buf = (feed Config.abcIdx s.buf c).1 ∧ t.sink = s.sink ++ (feed Config.abcIdx s.buf c).2 := by
  induction c generalizing s with
  | nil =>
    rw [feed_rest _ bound]
    exact ⟨s, rfl, inbox, rfl, (List.append_nil _).symm⟩
  | cons b c ih =>
    obtain ⟨u, next, left, buf, sink⟩ := step_byte_feeds bound inbox
    obtain ⟨t, run, done, reached, delivery⟩ := ih (step_buf_length_le bound next) left
    have cut := feed_append Config.abcIdx bound [b] c
    rw [← buf, List.singleton_append] at cut
    refine ⟨t, (run_of_step next).trans run, done, ?_, ?_⟩
    · rw [reached, cut]
    · rw [delivery, sink, cut, List.append_assoc]

/-- Settles O41: `feed` by induction on the first part, the run by induction on the chunk. -/
theorem fragmentationInvariance : Obligations.FragmentationInvariance := by
  refine ⟨fun idx buf s t bound => feed_append idx bound s t, fun s c bound inbox => ?_⟩
  obtain ⟨t, run, -, buf, sink⟩ := run_bytes (rest := []) bound (by rw [inbox, List.append_nil])
  exact ⟨t, run, buf, sink⟩

/-- Settles O44: the garbage is discarded, since a window that starts in it ends within the frame, and what is left is
`feed` of the frame. -/
theorem resyncRecoversFrame : Obligations.ResyncRecoversFrame := by
  intro s g f rest empty valid inbox garbage
  have invalid : ∀ i, i < g.length → ∀ w, Frame.ofBytes ((g ++ f.toBytes).drop i) = some w → w.valid = false := by
    intro i inside w window
    refine garbage i inside w ?_
    rw [List.drop_append_of_le_length (by rw [List.length_append]; omega)]
    exact Frame.ofBytes_append window rest
  have recovered : feed Config.abcIdx [] (g ++ f.toBytes) = ([], [eventOf Config.abcIdx f]) := by
    rw [feed_discards _ (by simp) invalid, feed_frame _ valid]
  rw [List.map_append] at inbox
  obtain ⟨t, run, left, buf, sink⟩ := run_bytes (by simp [empty]) inbox
  rw [empty, recovered] at buf sink
  rw [List.length_append, f.toBytes_length] at run
  exact ⟨t, run, buf, left, sink⟩

/-- Settles O19: the three cases of the byte step, and `feed` of the byte. -/
theorem byteStepFillsAcceptsOrSlides : Obligations.ByteStepFillsAcceptsOrSlides := by
  intro s b rest taken
  refine ⟨step_fills taken, fun w window valid => ?accept, fun w window invalid => ?slide, fun bound => ?feed⟩
  case accept =>
    have front : Frame.ofBytes (s.buf ++ [b]) = some w := window ▸ Frame.ofBytes_toBytes_append w []
    have consumed : (s.buf ++ [b]).drop 9 = [] := window ▸ rfl
    rw [step_of_validWindow taken front (w.valid_iff_fields.mpr valid), delivered, consumed]
  case slide =>
    have front : Frame.ofBytes (s.buf ++ [b]) = some w := window ▸ Frame.ofBytes_toBytes_append w []
    have eight : s.buf.length + 1 = 9 := by
      rw [← w.toBytes_length, window, List.length_append, List.length_singleton]
    rw [step_slides taken front (Bool.eq_false_iff.mpr fun valid => invalid (w.valid_iff_fields.mp valid)),
      List.drop_append_of_le_length (by omega)]
  case feed =>
    obtain ⟨t, next, -, buf, sink⟩ := step_byte_feeds bound taken
    exact ⟨t, next, buf, sink⟩

/-- Up to eight bytes received by an empty buffer fill it and deliver no Event (42_decoder.md R126). -/
theorem run_fills {s : State} {l : List Byte} (empty : s.buf = []) (short : l.length ≤ 8) :
    ∃ u, Host.Core.run Sys2Proof.core l.length { s with inbox := l.map rxEdge } = .next u ∧ u.sink = s.sink ∧
      u.buf = l := by
  obtain ⟨u, run, -, buf, sink⟩ := run_bytes (s := { s with inbox := l.map rxEdge }) (rest := [])
    (by simp [empty]) (List.append_nil _).symm
  simp only [empty, feed_nil_of_short _ short, List.append_nil] at buf sink
  exact ⟨u, run, sink, buf⟩

/-- Settles O29: only a completed window delivers, and it empties a buffer at rest, which eight bytes then only fill. -/
theorem eventsAreNineStepsApart : Obligations.EventsAreNineStepsApart := by
  refine ⟨fun s t next => ?step, fun idx buf chunk => ?feed⟩
  case step =>
    rcases step_outcome s with ⟨l, -, outcome⟩ | ⟨b, w, -, -, outcome⟩ | ⟨r, -, x, -, outcome⟩ <;>
      cases outcome.symm.trans next
    · exact ⟨.inl rfl, fun _ more => absurd rfl more⟩
    · refine ⟨.inr ⟨_, rfl⟩, fun bound _ => ?_⟩
      have consumed : (s.buf ++ [b]).drop 9 = [] := List.drop_eq_nil_of_le (by simp; omega)
      exact ⟨consumed, fun l short => run_fills consumed short⟩
    · exact ⟨.inl rfl, fun _ more => absurd rfl more⟩
  case feed =>
    obtain ⟨-, bytes⟩ := feed_length idx (buf := []) (Nat.zero_le 8) (buf ++ chunk)
    rw [List.length_nil, List.length_append, ← feed_eq_feed_nil] at bytes
    omega

end Sys2Proof.Machine

/-! PROOF. Decoder cases: each is the case of its own window, which it consumes and whose Event it delivers (42_decoder.md
R117 to R124), and windows and cases name each other. -/

namespace Sys2Proof

open Sys2Proof.Machine.Claims

/-! ### Windows and cases -/

/-- Settles O48: the window of a case is valid and classified as that case; a window decoded is the window of its
case. -/
theorem windowDecodeEncode : Obligations.WindowDecodeEncode := by
  refine ⟨fun i rest rx wf => ?decode, fun b i decoded => ?encode⟩
  case decode =>
    rw [decodeRx_of_valid (Frame.ofBytes_toBytes_append _ rest) (encode_rx_valid rx wf), windowInstr_encode rx wf]
  case encode =>
    obtain ⟨w, front, valid, rfl⟩ := decodeRx_ok_inv decoded
    obtain ⟨rx, wf, window⟩ := windowInstr_spec w valid
    refine ⟨rx, wf, ?_⟩
    rw [window, Frame.ofBytes_split front, List.take_left' w.toBytes_length]

/-- The decoder accepts exactly the valid windows (42_decoder.md R113). -/
theorem exists_decodeRx_iff (w : Frame) : (∃ i, decodeRx w.toBytes = .ok i) ↔ ValidWindow w := by
  have front : Frame.ofBytes w.toBytes = some w := Frame.ofBytes_toBytes_append w []
  rw [ValidWindow, ← w.valid_iff_fields]
  constructor
  · rintro ⟨i, decoded⟩
    obtain ⟨v, window, valid, -⟩ := decodeRx_ok_inv decoded
    obtain rfl : w = v := Option.some.inj (front.symm.trans window)
    exact valid
  · exact fun valid => ⟨_, decodeRx_of_valid front valid⟩

/-- A valid window is its code and payload: the header is fixed and the checksum determined (42_decoder.md R113). -/
def validWindowEquiv : {w : Frame // ValidWindow w} ≃ Byte × BitVec 48 where
  toFun w := (w.val.code, w.val.payload.toBits)
  invFun x := ⟨wireFrame x.1 (Payload.ofBits x.2), (Frame.valid_iff_fields _).mp (wireFrame_valid _ _)⟩
  left_inv := by
    rintro ⟨w, window⟩
    apply Subtype.ext
    simp only [Payload.ofBits_toBits]
    exact (Frame.eq_wireFrame (w.valid_iff_fields.mpr window)).symm
  right_inv x := Prod.ext rfl (Payload.toBits_ofBits x.2)

theorem card_bitVec (n : Nat) : Nat.card (BitVec n) = 2 ^ n := by
  rw [Nat.card_congr BitVec.equivFin.toEquiv, Nat.card_fin]

/-- Settles O20: acceptance by the decoder, and the count by the code and payload a valid window consists of. -/
theorem validityIsHeaderAndChecksum : Obligations.ValidityIsHeaderAndChecksum := by
  refine ⟨exists_decodeRx_iff, ?_⟩
  rw [Nat.card_congr validWindowEquiv, Nat.card_prod, card_bitVec, card_bitVec, ← pow_add]

/-! ### The ABC status byte -/

/-- `P[i]` is byte `i` of the payload. -/
theorem Payload.toBytes_getElem? (p : Payload) (i : Fin 6) : p.toBytes[i.val]? = some (p.get i) := by
  fin_cases i <;> rfl

theorem abcStatus_iff (idx : Fin 6) (p : Payload) : abcStatus idx p = true ↔ p.toBytes[idx.val]? ≠ some 0 := by
  rw [Payload.toBytes_getElem?, abcStatus, bne_iff_ne, Ne, Ne, Option.some_inj]

end Sys2Proof

namespace Sys2Proof.Machine

open Sys2Proof.Machine.Claims

/-! ### The Event of each case -/

/-- Settles O12: a case is that of its window, which delivers `event_of` of it. -/
theorem decoderCasesAreEventOf : Obligations.DecoderCasesAreEventOf := by
  intro i s rx wf
  have delivery := exec_windowInstr (encode i) s
  rwa [windowInstr_encode rx wf] at delivery

/-- Settles O8: `abc` is the status byte tested, at whatever index. -/
theorem abcStatusDelivers : Obligations.AbcStatusDelivers :=
  fun p _ _ => ⟨_, _, abcStatus_iff Config.abcIdx p, rfl, rfl, rfl, rfl, rfl, rfl, rfl⟩

/-- Settles O9: by whether the four characters are ASCII. -/
theorem fwVersionDelivers : Obligations.FwVersionDelivers := by
  intro p cs s
  have ascii : versionOk p = true ↔
      p.p0.toNat ≤ 0x7F ∧ p.p1.toNat ≤ 0x7F ∧ p.p2.toNat ≤ 0x7F ∧ p.p3.toNat ≤ 0x7F := by
    simp only [versionOk_iff_lt, Nat.lt_succ_iff]
  rw [← ascii]
  exact ⟨fun ok => ⟨_, if_pos ok, rfl, rfl, rfl, rfl, rfl, rfl⟩,
    fun notOk => ⟨_, if_neg notOk, rfl, rfl, rfl, rfl, rfl, rfl, rfl, rfl⟩⟩

/-- A case that delivers the plain Event of its code is an opaque case. -/
theorem opaqueCase_of_plainEvent {code : Byte} {mk : Payload → Byte → Instr}
    (meaning : ∀ p cs s, exec (mk p cs) s = deliver (plainEvent code p cs) s) : OpaqueCase code mk :=
  fun p cs s => ⟨_, meaning p cs s, rfl, rfl, rfl, rfl, rfl⟩

/-- Settles O10: each of the eleven meanings delivers the plain Event of its code. -/
theorem opaqueCasesDeliver : Obligations.OpaqueCasesDeliver := by
  refine ⟨?_, ?_, ?_, ?_, ?_, ?_, ?_, ?_, ?_, ?_, ?_⟩ <;> exact opaqueCase_of_plainEvent fun _ _ _ => rfl

/-- Settles O11: its meaning delivers this one Event for every code. -/
theorem unrecognisedDelivers : Obligations.UnrecognisedDelivers :=
  fun _ _ _ _ _ => ⟨_, rfl, rfl, rfl, rfl, rfl, rfl, rfl, rfl, rfl⟩

/-- Settles O16: each outcome of a step is a next state. -/
theorem noStepStops : Obligations.NoStepStops := by
  intro s
  rcases step_outcome s with ⟨l, -, outcome⟩ | ⟨b, w, -, -, outcome⟩ | ⟨r, -, x, -, outcome⟩ <;> exact ⟨_, outcome⟩

end Sys2Proof.Machine

/-! PROOF. Every operation completes, and a refusal names the first cause that holds (60_exceptions.md R141, R142,
R147): the algorithm refuses for a cause exactly when the cause applies, and the ports show its answer. -/

namespace Sys2Proof.Machine

/-- Settles O15: an encoder operation answers, a decoder case delivers its Event, and each is a next state. -/
theorem everyInstructionCompletes : Obligations.EveryInstructionCompletes := by
  intro i s
  rcases direction_cases i with tx | rx
  · obtain ⟨x, outcome⟩ := exec_tx_onlyAnswers i s tx
    exact ⟨_, outcome⟩
  · obtain ⟨e, outcome⟩ := exec_rx_delivers i s rx
    exact ⟨_, outcome.trans (deliver_next e s)⟩

/-! ### The range of an offset -/

/-- The third cause of R142, for a code and its offset argument. -/
def OffsetOutOfRange (code : Byte) (off : BitVec 16) : Prop :=
  code ∈ [0x80, 0x90] ∧ 1023 < off.toNat ∨ code ∈ [0x81, 0x82, 0x83, 0x91, 0x92, 0x93] ∧ 255 < off.toNat

theorem mem_genericCodes_iff (c : Byte) : c ∈ [0x80, 0x90] ↔ isGeneric c = true := by
  simp [isGeneric]

/-- The sub-codes given directly are the codes of the two families that are not generic. -/
theorem mem_directCodes_iff (c : Byte) : c ∈ [0x81, 0x82, 0x83, 0x91, 0x92, 0x93] ↔
    (writeFamily.contains c || readFamily.contains c) = true ∧ isGeneric c = false := by
  revert c
  decide

theorem offsetOutOfRange_generic {c : Byte} (generic : isGeneric c = true) (off : BitVec 16) :
    OffsetOutOfRange c off ↔ 1023 < off.toNat := by
  simp only [OffsetOutOfRange, mem_genericCodes_iff, mem_directCodes_iff, generic, true_and, Bool.true_eq_false,
    and_false, false_and, or_false]

theorem offsetOutOfRange_direct {c : Byte} (configArea : (writeFamily.contains c || readFamily.contains c) = true)
    (concrete : isGeneric c = false) (off : BitVec 16) : OffsetOutOfRange c off ↔ 255 < off.toNat := by
  simp only [OffsetOutOfRange, mem_genericCodes_iff, mem_directCodes_iff, concrete, configArea, Bool.false_eq_true,
    true_and, false_and, false_or]

theorem not_offsetOutOfRange_plain {c : Byte}
    (notConfigArea : (writeFamily.contains c || readFamily.contains c) = false) (concrete : isGeneric c = false)
    (off : BitVec 16) : ¬ OffsetOutOfRange c off := by
  simp only [OffsetOutOfRange, mem_genericCodes_iff, mem_directCodes_iff, concrete, notConfigArea, Bool.false_eq_true,
    false_and, or_self, not_false_eq_true]

/-- Only a member code has an offset to check. -/
theorem isCode_of_offsetOutOfRange {c : Byte} {off : BitVec 16} (h : OffsetOutOfRange c off) : isCode c = true := by
  have members : ∀ c ∈ ([0x80, 0x90, 0x81, 0x82, 0x83, 0x91, 0x92, 0x93] : List Byte), isCode c = true := by decide
  refine members c ?_
  rcases h with ⟨generic, -⟩ | ⟨direct, -⟩
  · exact List.mem_append_left _ generic
  · exact List.mem_append_right [0x80, 0x90] direct

/-! ### The cause of a refusal -/

/-- Step 3 of R80 refuses whatever the kind of the code. -/
theorem encodeSpec_wrongCount {c : Byte} {a : Args} (member : isCode c = true) (wrong : argcReq c ≠ some a.argc)
    (v : BitVec 48) : encodeSpec ⟨c, a, false, v⟩ = .refusal .argc := by
  rw [encodeSpec, if_neg (by simp [member]), if_neg (by simp), if_pos wrong]

/-- Step 4 of R80: with the right count, a refusal with `EE_RANGE` or a frame, by the offset alone. -/
theorem encodeSpec_rightCount {c : Byte} {a : Args} (member : isCode c = true) (count : argcReq c = some a.argc)
    (v : BitVec 48) :
    (OffsetOutOfRange c a.arg0 ∧ encodeSpec ⟨c, a, false, v⟩ = .refusal .range) ∨
    (¬ OffsetOutOfRange c a.arg0 ∧ ∃ f, encodeSpec ⟨c, a, false, v⟩ = .frame f) := by
  have counted : ¬ argcReq c ≠ some a.argc := not_not.mpr count
  cases generic : isGeneric c with
  | true =>
    rw [offsetOutOfRange_generic generic, encodeSpec_generic generic, if_neg counted]
    by_cases high : 1023 < a.arg0.toNat
    · rw [resolveFamily_outOfRange high]
      exact .inl ⟨high, rfl⟩
    · rw [resolveFamily_inRange generic (Nat.not_lt.mp high)]
      exact .inr ⟨high, _, rfl⟩
  | false =>
    cases configArea : writeFamily.contains c || readFamily.contains c with
    | true =>
      rw [offsetOutOfRange_direct configArea generic, encodeSpec_direct configArea generic, if_neg counted]
      by_cases high : 255 < a.arg0.toNat
      · exact .inl ⟨high, if_pos high⟩
      · exact .inr ⟨high, _, if_neg high⟩
    | false =>
      rw [encodeSpec_plain member configArea generic, if_neg counted]
      exact .inr ⟨not_offsetOutOfRange_plain configArea generic _, _, rfl⟩

/-- The rows of R142, each with the rows above it left out (R147 (a)). -/
def CauseApplies (r : EncRequest) (cause : EncErr) : Prop :=
  match cause with
  | .badCode => isCode r.code = false
  | .argc => isCode r.code = true ∧ r.rawEn = false ∧ argcReq r.code ≠ some r.args.argc
  | .range => r.rawEn = false ∧ argcReq r.code = some r.args.argc ∧ OffsetOutOfRange r.code r.args.arg0

/-- The algorithm refuses for a cause exactly when the cause applies. -/
theorem encodeSpec_eq_refusal_iff (r : EncRequest) (cause : EncErr) :
    encodeSpec r = .refusal cause ↔ CauseApplies r cause := by
  obtain ⟨c, a, rawEn, v⟩ := r
  cases member : isCode c with
  | false =>
    have noOffset : ¬ OffsetOutOfRange c a.arg0 := fun h =>
      Bool.false_ne_true (member.symm.trans (isCode_of_offsetOutOfRange h))
    rw [encodeSpec_badCode member]
    cases cause <;> simp [CauseApplies, member, noOffset]
  | true =>
    cases rawEn with
    | true =>
      rw [encodeSpec_raw member]
      cases cause <;> simp [CauseApplies, member]
    | false =>
      by_cases count : argcReq c = some a.argc
      · rcases encodeSpec_rightCount member count v with ⟨outOfRange, answer⟩ | ⟨inRange, f, answer⟩
        · rw [answer]
          cases cause <;> simp [CauseApplies, member, count, outOfRange]
        · rw [answer]
          cases cause <;> simp [CauseApplies, member, count, inRange]
      · rw [encodeSpec_wrongCount member count]
        cases cause <;> simp [CauseApplies, member, count]

/-! ### The encoder's output ports -/

theorem EncErr.toCode_ne_zero (cause : EncErr) : cause.toCode ≠ 0 := by
  cases cause <;> decide

theorem EncErr.toCode_injective : Function.Injective EncErr.toCode := by
  intro c d
  cases c <;> cases d <;> decide

/-- `enc_err` is the code of a cause exactly with a refusal for that cause. -/
theorem State.encErr_eq_toCode_iff {t : State} {x : EncResult} (answer : t.enc = some x) (cause : EncErr) :
    t.encErr = some cause.toCode ↔ x = .refusal cause := by
  cases x with
  | frame f => simpa [State.encErr, answer] using cause.toCode_ne_zero.symm
  | refusal c => simp [State.encErr, answer, EncErr.toCode_injective.eq_iff]

/-- `enc_err` is 0 exactly when `enc_ok` is 1; before any request neither has a value. -/
theorem State.encErr_eq_zero_iff (t : State) : t.encErr = some 0 ↔ t.encOk = some true := by
  rcases answer : t.enc with _ | f | c
  · simp [State.encErr, State.encOk, answer]
  · simp [State.encErr, State.encOk, answer]
  · simpa [State.encErr, State.encOk, answer] using c.toCode_ne_zero

/-- `enc_ok` is 1 exactly when `enc_frame` has a value. -/
theorem State.encOk_iff_encFrame (t : State) : t.encOk = some true ↔ t.encFrame.isSome = true := by
  rcases answer : t.enc with _ | f | c <;> simp [State.encOk, State.encFrame, answer]

/-- A step that takes a request leaves the algorithm's answer on the ports. -/
theorem step_request_enc {s t : State} {r : EncRequest} {rest : List Stimulus} (taken : s.inbox = .request r :: rest)
    (next : step s = .next t) : t.enc = some (encodeSpec r) := by
  cases (encoderIsTheSpecAlgorithm s r rest taken).symm.trans next
  rfl

/-- Settles O31: the port's code is that of the cause that applies, and 0 with a frame. -/
theorem refusalCauses : Obligations.RefusalCauses := by
  intro s t r rest taken next
  have reported (cause : EncErr) : t.encErr = some cause.toCode ↔ CauseApplies r cause :=
    (State.encErr_eq_toCode_iff (step_request_enc taken next) cause).trans (encodeSpec_eq_refusal_iff r cause)
  exact ⟨reported .badCode, reported .argc, reported .range, t.encErr_eq_zero_iff, t.encOk_iff_encFrame⟩

end Sys2Proof.Machine

/-! PROOF. The block's reset (70_reset_and_hazards.md R160, R161): every reset edge leaves the same empty buffer, whatever
comes with it, and the bytes after the last one are received as step FILL says. -/

namespace Sys2Proof.Machine

open Sys2Proof.Machine.Claims

/-- Settles O21: the fetch tests `rst` before `rx_valid`. -/
theorem resetWinsOverByte : Obligations.ResetWinsOverByte :=
  fun _ _ _ _ taken => step_of_done (fetch_edge taken)

/-- One or more reset edges leave what the last of them leaves. -/
theorem run_resetEdges {s : State} {held : List (Bool × Byte)} {rest : List Stimulus} (nonempty : held ≠ [])
    (inbox : s.inbox = (held.map fun x => .edge true x.1 x.2) ++ rest) (k : Nat) :
    Host.Core.run Sys2Proof.core (held.length + k) s =
      Host.Core.run Sys2Proof.core k { s with buf := [], ev := none, inbox := rest } := by
  induction held generalizing s with
  | nil => exact absurd rfl nonempty
  | cons x held ih =>
    rw [List.length_cons, Nat.add_right_comm, run_of_step (resetWinsOverByte s x.1 x.2 _ inbox)]
    rcases held with _ | ⟨y, held⟩
    · rw [List.length_nil, Nat.zero_add]
      rfl
    · exact ih (List.cons_ne_nil y held) rfl

/-- With no Event on the ports, bytes that the buffer has room for are appended and nothing else changes. -/
theorem run_appends {s : State} {l : List Byte} (room : s.buf.length + l.length ≤ 8) (quiet : s.ev = none)
    (inbox : s.inbox = l.map rxEdge) :
    Host.Core.run Sys2Proof.core l.length s = .next { s with buf := s.buf ++ l, ev := none, inbox := [] } := by
  induction l generalizing s with
  | nil =>
    have same : s = { s with buf := s.buf ++ [], ev := none, inbox := [] } := by
      rw [List.append_nil, ← quiet, ← show s.inbox = [] from inbox]
    exact congrArg _ same
  | cons b l ih =>
    rw [List.length_cons] at room
    have roomAfter : (s.buf ++ [b]).length + l.length ≤ 8 := by
      rw [List.length_append, List.length_singleton]
      omega
    rw [List.length_cons, run_of_step (step_fills inbox (by omega)), ih roomAfter rfl rfl, List.append_assoc,
      List.singleton_append]

/-- Settles O22: the run over the reset edges, then the run over the bytes from the empty buffer. -/
theorem resetHeldIsResetOnce : Obligations.ResetHeldIsResetOnce := by
  intro s held l nonempty short inbox
  rw [run_resetEdges nonempty inbox]
  exact run_appends (by simpa using short) rfl rfl

end Sys2Proof.Machine
